-- ==== Sys2Proof/Word.lean ====
section
/-! DEFINITION. The word types of TSYN (spec/00_scope.md R11, R14): every width the spec fixes, under one name each. -/

namespace Sys2Proof

/-- A command word, an MMIO register and the MMIO data bus: 32 bits (R11). -/
abbrev Word := BitVec 32

/-- One byte lane of the host bus, or one byte of a frame (R63, R64). -/
abbrev Byte := BitVec 8

/-- A sample (s16, two's complement) and its frame `to_u16` (R14, R171): the same 16 bits. -/
abbrev Sample := BitVec 16

/-- The operand of a command, FREQ and REM: u28 (R11, R20). -/
abbrev Operand := BitVec 28

/-- The phase accumulator ACC: u24 at every R (spec/10_state.md R20). DESIGN CHOICE (notes/assumptions/23.md): R11 gives ACC
ceil(log2 R) bits, and no rule says which of the two it is. It holds 0 to R-1 by both (R44), which fit either width. -/
abbrev Phase := BitVec 24

end Sys2Proof
end

