-- ==== Sys2Proof/Syntax.lean ====
section
/-! DEFINITION. The commands of TSYN (spec/30_encoding.md R93, spec/opcode_table.json): one constructor per row. -/

namespace Sys2Proof

/-- The four commands. An operand is the unsigned integer of R92, before its range is checked (WellFormed.lean). -/
inductive Instr where
  /-- SETF f: set the tone frequency to f Hz (R116). -/
  | setf (f : Nat)
  /-- TONE n: emit a tone segment of n samples (R117). -/
  | tone (n : Nat)
  /-- SIL n: emit a silence segment of n samples (R118). -/
  | sil (n : Nat)
  /-- DRAIN: play everything, then close the sink (R142). -/
  | drain
  deriving DecidableEq, Repr

end Sys2Proof
end

