-- ==== Sys2Proof/WellFormed.lean ====
section
/-! DEFINITION. Which commands can be encoded: an operand is 0 to 2^28 - 1 (spec/30_encoding.md R92, R96, R97). -/

namespace Sys2Proof

/-- The bound of the ARG field, 2^28 (R91). -/
def operandBound : Nat := 2 ^ 28

/-- "An operand of 2^28 or more cannot be encoded, and the assembler refuses it" (R96). DRAIN has no operand. -/
def Instr.wellFormed : Instr → Bool
  | .setf f => decide (f < operandBound)
  | .tone n => decide (n < operandBound)
  | .sil n => decide (n < operandBound)
  | .drain => true

end Sys2Proof
end

