-- ==== Sys2Proof/Decode.lean ====
section
/-! DEFINITION. Decoding and encoding of command words (spec/30_encoding.md R90 to R96). -/

namespace Sys2Proof

/-- OP, bits 31:28 (R91). -/
def opField (w : Word) : BitVec 4 := w.extractLsb' 28 4

/-- ARG, bits 27:0, an unsigned integer that is not scaled, shifted or sign-extended (R91, R92). -/
def argField (w : Word) : Operand := w.extractLsb' 0 28

/-- Why a word is illegal: the three clauses of R94, by name. -/
inductive IllegalReason where
  /-- OP = 0x0, the all-zero word among them. -/
  | opZero
  /-- OP = 0x5 to 0xF. -/
  | opUnassigned
  /-- OP = 0x4 with ARG not 0. -/
  | drainArg
  deriving DecidableEq, Repr

/-- What a word decodes to: "exactly one of SETF, TONE, SIL or DRAIN by rule R93, or illegal by rule R94" (R95). -/
inductive Decoded where
  | legal (i : Instr)
  | illegal (why : IllegalReason)
  deriving DecidableEq, Repr

/-- The decoder of R95, total on every 32-bit word. -/
def decode (w : Word) : Decoded :=
  let op := opField w
  let arg := (argField w).toNat
  if op = 0x1#4 then .legal (.setf arg)
  else if op = 0x2#4 then .legal (.tone arg)
  else if op = 0x3#4 then .legal (.sil arg)
  else if op = 0x4#4 then
    if arg = 0 then .legal .drain else .illegal .drainArg
  else if op = 0x0#4 then .illegal .opZero
  else .illegal .opUnassigned

/-- A word is illegal by R94. -/
def illegalWord (w : Word) : Bool :=
  match decode w with
  | .legal _ => false
  | .illegal _ => true

/-- The encoding functions of R96. -/
def encode : Instr → Word
  | .setf f => 0x10000000#32 ||| BitVec.ofNat 32 f
  | .tone n => 0x20000000#32 ||| BitVec.ofNat 32 n
  | .sil n => 0x30000000#32 ||| BitVec.ofNat 32 n
  | .drain => 0x40000000#32

/-- One row of the opcode map (R93). -/
structure OpcodeRow where
  mnemonic : String
  pattern  : Word
  mask     : Word
  deriving DecidableEq, Repr

/-- The opcode map of R93: a word is of a row when its bits under the mask are the row's pattern. -/
def opcodeMap : List OpcodeRow :=
  [ { mnemonic := "SETF", pattern := 0x10000000#32, mask := 0xF0000000#32 },
    { mnemonic := "TONE", pattern := 0x20000000#32, mask := 0xF0000000#32 },
    { mnemonic := "SIL", pattern := 0x30000000#32, mask := 0xF0000000#32 },
    { mnemonic := "DRAIN", pattern := 0x40000000#32, mask := 0xFFFFFFFF#32 } ]

/-- The word is of the row. -/
def OpcodeRow.covers (r : OpcodeRow) (w : Word) : Bool := w &&& r.mask == r.pattern

/-- The table's name of a command. -/
def Instr.mnemonic : Instr → String
  | .setf _ => "SETF"
  | .tone _ => "TONE"
  | .sil _ => "SIL"
  | .drain => "DRAIN"

/-- The command word whose bits are the low `nbits` bits of `w`, every higher bit 0. A command is one 32-bit word (R90),
pushed by one whole-word write, so it has no byte layout of its own. -/
def tableWord (nbits w : Nat) : Word := BitVec.ofNat 32 (w % 2 ^ nbits)

/-- The command the decoder reads from an opcode-table word. -/
def decodeTableWord (nbits w : Nat) : Option Instr :=
  match decode (tableWord nbits w) with
  | .legal i => some i
  | .illegal _ => none

end Sys2Proof
end

