-- ==== Sys2Proof/Config.lean ====
section
/-! DEFINITION. What an implementation of TSYN fixes when it is built or placed (spec/00_scope.md R5 to R9; the OPEN
parameters of spec/92_eei_decisions.md). The parameters are plain data carried by the state and changed by no step, so
that a statement about every state is a statement about every build. The spec leaves no value undefined
(spec/10_state.md R48), so there is no free value here. -/

namespace Sys2Proof

/-- The build-time and platform parameters (R5, R7, R8, R9). -/
structure Config where
  /-- `R`, the sample rate in Hz (R5). -/
  rate     : Nat
  /-- `CMD_DEPTH`, the entries of the command FIFO (R7). -/
  cmdDepth : Nat
  /-- `OUT_DEPTH`, the samples of the output FIFO (R8). -/
  outDepth : Nat
  /-- `TSYN_BASE`, the byte address of the register window (R9). -/
  base     : Nat
  deriving DecidableEq, Repr

/-- The parameters are in the ranges the spec gives: R in 1..2^24-1 (R5), both depths in 1..65535 (R7, R8), and the
base a multiple of 64 (R9). -/
def Config.wf (c : Config) : Bool :=
  decide (1 ≤ c.rate ∧ c.rate < 2 ^ 24 ∧ 1 ≤ c.cmdDepth ∧ c.cmdDepth ≤ 65535 ∧
    1 ≤ c.outDepth ∧ c.outDepth ≤ 65535 ∧ c.base % 64 = 0)

/-- The default build: R = 44100 (R5), CMD_DEPTH = 16 (R7), OUT_DEPTH = 256 (R8). R9 leaves the base OPEN; the value 0 is
a DESIGN CHOICE (notes/assumptions/1.md, safe: no step other than the window's decoding reads it). -/
def Config.default : Config :=
  { rate := 44100, cmdDepth := 16, outDepth := 256, base := 0 }

end Sys2Proof
end

