-- ==== Sys2Proof/Machine/State.lean ====
section
/-! DEFINITION. The state of TSYN (spec/10_state.md R20), the three agents' inputs as plain data (spec/00_scope.md R12,
R13), the reasons a step can stop, and the state after reset (R48). -/

namespace Sys2Proof.Machine

/-- STATE, the engine state (R29). The encodings 5 to 7 are written by no rule and have no constructor. -/
inductive EngineState where
  /-- 0: no run, the sink is closed. -/
  | off
  /-- 1: a run is in progress, the engine waits for or decodes the next command. -/
  | ready
  /-- 2: generating the samples of a TONE segment. -/
  | tone
  /-- 3: generating the samples of a SIL segment. -/
  | sil
  /-- 4: executing DRAIN. -/
  | drain
  deriving DecidableEq, Repr

/-- CODE, the latched error code (R190). The codes 4 to 15 are written by no rule and have no constructor. -/
inductive ErrorCode where
  /-- 0: none latched. -/
  | none
  /-- 1: the enable step found no device (R191). -/
  | deviceUnavailable
  /-- 2: the sink rejected a frame (R192). -/
  | writeFailure
  /-- 3: the engine decoded an illegal word (R193). -/
  | illegalCommand
  deriving DecidableEq, Repr

/-- How the latest run ended, named by the step that ended it (R182 (b), R245). -/
inductive RunEnd where
  /-- No enable has been tried yet. -/
  | noRun
  /-- The run is in progress: STATE is not OFF. -/
  | notEnded
  /-- DRAIN completion (R144). -/
  | done
  /-- A fatal error, with the CODE and the ERRCMD it latched (R195). A failed enable ends so the run it does not start
  (R191). -/
  | error (code : ErrorCode) (errcmd : Word)
  /-- An abort (R148). -/
  | aborted
  /-- SRST or a hardware reset, in a run (R149, R230). -/
  | reset
  deriving DecidableEq, Repr

/-- The width of a host bus access (R62): only `word` is defined. -/
inductive AccessSize where
  | byte
  | half
  | word
  deriving DecidableEq, Repr

/-- The four byte lanes of a host write (R63): a lane whose byte enable is off carries nothing (R62). -/
structure Lanes where
  b0 : Option Byte
  b1 : Option Byte
  b2 : Option Byte
  b3 : Option Byte
  deriving DecidableEq, Repr

/-- One operation of the host's program (R16, R98). The address is a byte address of the host's space. -/
inductive HostOp where
  /-- An MMIO read. -/
  | read (addr : Nat) (size : AccessSize)
  /-- An MMIO write. -/
  | write (addr : Nat) (size : AccessSize) (lanes : Lanes)
  /-- WAIT_OFF: repeat a read of STATUS until its bits 2:0 are 0 (R98). -/
  | waitOff
  deriving DecidableEq, Repr

/-- The bus's answer to one host access. -/
inductive BusResponse where
  /-- A read completed with this value (R153). -/
  | readData (value : Word)
  /-- A write completed; one that was ignored or dropped answers the same (R41, R152). -/
  | writeDone
  /-- The bus error response, with the data a read then returns (R62, R199). -/
  | busError (value : Word)
  /-- The address is outside the window: TSYN gives no answer, the platform's is outside the spec (R61). -/
  | notDecoded
  deriving DecidableEq, Repr

/-- A move of the Sink agent (R172, R179; R170 gives the port's signals). -/
inductive SinkMove where
  /-- The levels of snk_ready and snk_fail while a frame is offered. Both low is a stall (R175). -/
  | transfer (ready fail : Bool)
  /-- snk_drain_ack is high. -/
  | drainAck
  /-- The sink takes one byte of a frame only. Refused (R185). -/
  | halfFrame
  deriving DecidableEq, Repr

/-- The events of one hardware clock (R203). -/
structure ClockEvents where
  /-- rst_n is low. -/
  reset  : Bool
  /-- The host performs its next access. -/
  host   : Bool
  /-- The level of snk_avail. -/
  avail  : Bool
  /-- The sink's event, if any. -/
  sink   : Option SinkMove
  /-- The engine takes its step. -/
  engine : Bool
  deriving DecidableEq, Repr

/-- Which agent moves next, and what it draws (R12, R13). -/
inductive Move where
  /-- The hardware reset input (R230), one atomic step. -/
  | reset
  /-- The host performs its next access. `avail` is the level of snk_avail in that step (R147, R181). -/
  | host (avail : Bool)
  /-- The sink moves. -/
  | sink (m : SinkMove)
  /-- The engine moves. -/
  | engine
  /-- Several events in one clock, in the order of R203. -/
  | clock (e : ClockEvents)
  /-- A second host accesses the window. Refused (R209). -/
  | otherHost (op : HostOp)
  deriving DecidableEq, Repr

/-- The state of TSYN (R20), the Sink's log (R177), the build's parameters (R5 to R9), and the MODEL's own fields: the record
of how the run ended (notes/assumptions/22.md) and the environment's pending moves (notes/assumptions/2.md,
notes/assumptions/3.md, notes/assumptions/13.md). -/
structure State where
  /-- The build-time parameters R, CMD_DEPTH, OUT_DEPTH and TSYN_BASE; no step writes them. -/
  cfg       : Config
  /-- STATE (R29). -/
  engine    : EngineState
  /-- DREQ, the drain-request bit (R45). -/
  dreq      : Bool
  /-- FREQ, the tone frequency in Hz (R36). -/
  freq      : Operand
  /-- ACC, the phase accumulator (R44). -/
  acc       : Phase
  /-- REM, the samples still to generate in the current segment (R40). -/
  remain    : Operand
  /-- CmdFifo, head first (R42). -/
  cmdFifo   : List Word
  /-- OutFifo, head first (R43). -/
  outFifo   : List Sample
  /-- SAMPLES, the frames accepted this run (R37). -/
  samples   : Word
  /-- SEGMENTS, the segment commands completed this run (R38). -/
  segments  : Word
  /-- IRQ_STATUS.DONE (R30). -/
  irqDone   : Bool
  /-- IRQ_STATUS.ERR (R30). -/
  irqErr    : Bool
  /-- IRQ_ENABLE.DONE_EN (R31). -/
  doneEn    : Bool
  /-- IRQ_ENABLE.ERR_EN (R31). -/
  errEn     : Bool
  /-- CODE, the latched error code (R32). -/
  code      : ErrorCode
  /-- ECMD, the latched illegal command word (R33). -/
  ecmd      : Word
  /-- SinkLog, the frames the sink accepted, oldest first (R177). Not block state: reset keeps it. -/
  sinkLog   : List Sample
  /-- How the latest run ended, recorded by the step that ended it (R182 (b), R245). Not block state, and no rule of the
  block reads it. The model's own field. -/
  runEnd    : RunEnd
  /-- The rest of the host's program, next access first (R12, R70). The model's own field. -/
  hostQueue : List HostOp
  /-- The bus's answers to the host's accesses, oldest first. The model's own field. -/
  busLog    : List BusResponse
  /-- The moves still to come, next first (R13). The model's own field. -/
  schedule  : List Move
  /-- The Sink takes no step after the scheduled ones: it stalls for ever and withholds every acknowledgement (R243;
  93_implementation_defined.md U12). No step writes it. The model's own field. -/
  sinkStalled : Bool
  deriving DecidableEq, Repr

/-- Why a step stops with a fault. -/
inductive Fault where
  /-- Raised by `step` when STATE is not OFF, nothing is scheduled and no agent has an enabled step: "A state in which no
  agent has an enabled step and STATE != OFF is stuck" (R245; R243, 93_implementation_defined.md U12). SAFE: the hardware too
  takes no further step there. -/
  | stuck
  deriving DecidableEq, Repr

/-- Why a step is refused. -/
inductive Refusal where
  /-- Raised by `exec` for a command whose meaning is not written. SAFE. No arm of this model uses it. -/
  | notModelled (mnemonic : String)
  /-- Raised when a second host accesses the window: "outside the spec, and a model refuses it" (R209; U11). SAFE. -/
  | secondHost
  /-- Raised when the sink would take half a frame: "TSYN never hands the sink half a frame" (R185; U2). SAFE. -/
  | halfFrame
  deriving DecidableEq, Repr

/-- The state after a hardware reset (R48), in the default build, with an empty SinkLog, no run yet, nothing pending in
the environment, and a Sink that does not stall for ever (notes/assumptions/1.md, notes/assumptions/2.md,
notes/assumptions/4.md, notes/assumptions/13.md, notes/assumptions/22.md). -/
def State.reset : State :=
  { cfg := Config.default
    engine := .off
    dreq := false
    freq := 0#28
    acc := 0#24
    remain := 0#28
    cmdFifo := []
    outFifo := []
    samples := 0#32
    segments := 0#32
    irqDone := false
    irqErr := false
    doneEn := false
    errEn := false
    code := .none
    ecmd := 0#32
    sinkLog := []
    runEnd := .noRun
    hostQueue := []
    busLog := []
    schedule := []
    sinkStalled := false }

end Sys2Proof.Machine
end

