-- ==== Sys2Proof/Machine/Operands.lean ====
section
/-! DEFINITION. The operand forms (spec/30_encoding.md R92, R63): a command's ARG as it enters the state, and a word as it
crosses the host bus. -/

namespace Sys2Proof.Machine

/-- ARG as the 28-bit unsigned value FREQ or REM takes (R92): not scaled, shifted or sign-extended. -/
def operand28 (n : Nat) : Operand := BitVec.ofNat 28 n

/-- Byte lane k of a register access carries its bits 8k+7:8k (R63). -/
def laneOf (v : Word) (k : Nat) : Byte := v.extractLsb' (8 * k) 8

/-- All four lanes of a word, every byte enable on: the lanes of `MmioWrite(off, v)` (R16, R63). -/
def fullLanes (v : Word) : Lanes :=
  { b0 := some (laneOf v 0), b1 := some (laneOf v 1), b2 := some (laneOf v 2), b3 := some (laneOf v 3) }

/-- The word the lanes carry, none when a byte enable is off (R62, R63). -/
def wordOfLanes : Lanes → Option Word
  | { b0 := some x0, b1 := some x1, b2 := some x2, b3 := some x3 } => some (x3 ++ x2 ++ x1 ++ x0)
  | _ => none

end Sys2Proof.Machine
end

