-- ==== Sys2Proof/Machine/Sine.lean ====
section
/-! DEFINITION. The sine sample function S (spec/40_synthesis.md R110 to R113), in exact integer arithmetic.

`sineSample R a` is S(a) = round_away(32767 * sin(2 * pi * a / R)) for every R of R5 and every 0 <= a < R; that law is
an obligation (SineMatchesExactLaw…), not a premise. The position a/R is folded into the first quadrant as the fraction
u/R of a quarter turn, with no rounding, for every R. There sin(pi * u / (2 * R)) is taken from the Taylor polynomial of
degree 29 at a 40-digit pi, as an exact fraction, and the one rounding of R110 ends the computation. The tie (sin = 1/2,
that is 3 * u = R) is decided by the integers themselves. DESIGN CHOICE on the circuit, which R112 leaves free; exactness
and the margin it rests on are in notes/assumptions/5.md. -/

namespace Sys2Proof.Machine

/-- pi is `piNumer / piDenom` to 40 decimals. -/
def piNumer : Nat := 31415926535897932384626433832795028841971

/-- See `piNumer`. -/
def piDenom : Nat := 10 ^ 40

/-- The factor of the sine series after x, from its term k on, as numerator and denominator, for x^2 = zn / zd:
1 - x^2/(2k(2k+1)) * (1 - x^2/((2k+2)(2k+3)) * (…)), cut after `terms` terms. -/
def sineSeries (zn zd : Int) : (terms k : Nat) → Int × Int
  | 0, _ => (1, 1)
  | terms + 1, k =>
    match sineSeries zn zd terms (k + 1) with
    | (n, d) => (zd * (2 * k * (2 * k + 1)) * d - zn * n, zd * (2 * k * (2 * k + 1)) * d)

/-- How many terms of the series are kept: with 14 the first one left out is x^31/31!, below 2^-92 on the quarter turn. -/
def sineTerms : Nat := 14

/-- round_away(32767 * sin(pi * u / (2 * rate))) for 0 <= u <= rate (R110 on the first quarter turn). At 3u = rate the
sine is exactly 1/2, the value exactly 16383.5, and the tie goes away from zero (R15, R110). -/
def quarterSine (rate u : Nat) : Int :=
  if 3 * u = rate then 16384
  else
    let a : Int := piNumer * u
    let b : Int := 2 * piDenom * rate
    match sineSeries (a * a) (b * b) sineTerms 1 with
    | (n, d) => (2 * 32767 * a * n + b * d) / (2 * b * d)

/-- S(a) of R110, for 0 <= a < rate, by the symmetries of R111 (c) and (d) in units of a quarter turn, so that the fold
is exact for every rate, a multiple of 4 or not. -/
def sineSample (rate a : Nat) : Int :=
  let u := 4 * a % rate
  match 4 * a / rate with
  | 0 => quarterSine rate u
  | 1 => quarterSine rate (rate - u)
  | 2 => -quarterSine rate u
  | _ => -quarterSine rate (rate - u)

/-- `to_u16` of R14: the 16-bit two's-complement pattern of a sample. -/
def toU16 (v : Int) : Sample := BitVec.ofInt 16 v

/-- The frame's two bytes, low byte first (R64, R171). -/
def frameBytes (f : Sample) : List Byte := [f.extractLsb' 0 8, f.extractLsb' 8 8]

/-- The byte stream of a list of frames (R177). -/
def streamBytes : List Sample → List Byte
  | [] => []
  | f :: fs => frameBytes f ++ streamBytes fs

end Sys2Proof.Machine
end

