-- ==== Sys2Proof/Machine/Flags.lean ====
section
/-! DEFINITION. The flags and output ports, each a function of the state (spec/10_state.md R22, R28, R46;
spec/60_exceptions.md R201), and the encodings of STATE and CODE. TSYN has no arithmetic condition codes (R22). -/

namespace Sys2Proof.Machine

/-- The value of STATE (R29). -/
def EngineState.bits : EngineState → BitVec 3
  | .off => 0#3
  | .ready => 1#3
  | .tone => 2#3
  | .sil => 3#3
  | .drain => 4#3

/-- The value of CODE (R190). -/
def ErrorCode.bits : ErrorCode → BitVec 4
  | .none => 0#4
  | .deviceUnavailable => 1#4
  | .writeFailure => 2#4
  | .illegalCommand => 3#4

/-- STATUS.CMD_EMPTY (R28). -/
def cmdEmpty (s : State) : Bool := s.cmdFifo.length == 0

/-- STATUS.CMD_FULL (R28): the FIFO holds CMD_DEPTH words. -/
def cmdFull (s : State) : Bool := s.cmdFifo.length == s.cfg.cmdDepth

/-- STATUS.OUT_EMPTY (R28). -/
def outEmpty (s : State) : Bool := s.outFifo.length == 0

/-- STATUS.OUT_FULL (R28): the FIFO holds OUT_DEPTH samples. -/
def outFull (s : State) : Bool := s.outFifo.length == s.cfg.outDepth

/-- The port snk_open, STATUS.SNK_OPEN and CTRL.EN: STATE is not OFF (R27, R28, R46). -/
def snkOpen (s : State) : Bool := s.engine != .off

/-- The port snk_valid (R46): a frame is offered. -/
def snkValid (s : State) : Bool := snkOpen s && !outEmpty s

/-- The port snk_frame (R46): the head of OutFifo when snk_valid, otherwise 0. -/
def snkFrame (s : State) : Sample := if snkValid s then s.outFifo.headD 0#16 else 0#16

/-- The port snk_drain_req and STATUS.DRAIN_REQ: DREQ (R45, R46). -/
def snkDrainReq (s : State) : Bool := s.dreq

/-- The irq output and STATUS.IRQ: (DONE and DONE_EN) or (ERR and ERR_EN) (R201). -/
def irqLine (s : State) : Bool := (s.irqDone && s.doneEn) || (s.irqErr && s.errEn)

/-- A flag as one register bit. -/
def flagBit (b : Bool) : BitVec 1 := BitVec.ofBool b

end Sys2Proof.Machine
end

