-- ==== Sys2Proof/Machine/Ops.lean ====
section
/-! DEFINITION. The named operations over the state that several rules share: the FIFOs (spec/10_state.md R42, R43), the
phase accumulator (R44), the end of a segment (spec/40_synthesis.md R121), the end of a run (spec/41_stream_control.md
R154), the fatal error procedure, which is TSYN's exception entry (spec/60_exceptions.md R195), the recovery from it
(R197), and the reset of the block (R48). -/

namespace Sys2Proof.Machine

/-- push(CmdFifo, w): append at the tail (R16, R42). -/
def pushCmd (w : Word) (s : State) : State := { s with cmdFifo := s.cmdFifo ++ [w] }

/-- CmdFifo has room for one more word (R152). -/
def cmdRoom (s : State) : Bool := decide (s.cmdFifo.length < s.cfg.cmdDepth)

/-- OutFifo has room for one more sample (R119, R120, R123). -/
def outRoom (s : State) : Bool := decide (s.outFifo.length < s.cfg.outDepth)

/-- push(OutFifo, v): append at the tail (R16, R43). -/
def pushSample (v : Sample) (s : State) : State := { s with outFifo := s.outFifo ++ [v] }

/-- ACC <- (ACC + FREQ) mod R, on unbounded integers (R14, R44, R119). -/
def advancePhase (s : State) : State :=
  { s with acc := BitVec.ofNat 24 ((s.acc.toNat + s.freq.toNat) % s.cfg.rate) }

/-- complete_segment(): SEGMENTS counts the segment mod 2^32, STATE <- READY (R121). -/
def completeSegment (s : State) : State :=
  { s with segments := s.segments + 1#32, engine := .ready }

/-- REM <- REM - 1, and the segment completes when that is 0 (R119, R120). -/
def countSample (s : State) : State :=
  let t := { s with remain := s.remain - 1#28 }
  if t.remain = 0#28 then completeSegment t else t

/-- The common decode step of TONE and SIL (R117, R118): ACC <- 0; a segment of no samples completes at once (R122),
any other starts with REM <- n and STATE <- `kind`. -/
def startSegment (kind : EngineState) (n : Operand) (s : State) : State :=
  if n = 0#28 then
    { s with acc := 0#24, segments := s.segments + 1#32 }
  else
    { s with acc := 0#24, remain := n, engine := kind }

/-- Close(): the common end of a run (R154). `how` is the end that the closing step is (R245), for the record. -/
def closeRun (how : RunEnd) (s : State) : State :=
  { s with outFifo := [], remain := 0#28, dreq := false, engine := .off, runEnd := how }

/-- Fatal(code, info): the fatal error procedure, TSYN's exception entry (R195, R196). It saves the code in CODE and the
word in ECMD, sets IRQ_STATUS.ERR, clears CmdFifo and closes the run. There is no saved program counter, no mode and no
vector (R196). -/
def fatal (code : ErrorCode) (info : Word) (s : State) : State :=
  closeRun (.error code info) { s with code := code, ecmd := info, irqErr := true, cmdFifo := [] }

/-- The recovery from a fatal error: a write of 1 to IRQ_STATUS.ERR clears ERR, CODE and ECMD (R150, R197). TSYN has no
return-from-trap operation (R197). -/
def clearError (s : State) : State :=
  { s with irqErr := false, code := .none, ecmd := 0#32 }

/-- The start of a run by a successful enable (R147): STATE <- READY, DREQ <- 0, both counters 0. The new run
has not ended (R245). -/
def startRun (s : State) : State :=
  { s with engine := .ready, dreq := false, samples := 0#32, segments := 0#32, runEnd := .notEnded }

/-- Every piece of block state to its reset value (R48, R149, R230). The Sink's log is not block state, the build's
parameters never change, and the environment is not the block's. A run in progress ends RESET (R245); with STATE = OFF the
latest run has ended already, and its end stays. -/
def resetBlock (s : State) : State :=
  { s with
    engine := .off
    dreq := false
    freq := 0#28
    acc := 0#24
    remain := 0#28
    cmdFifo := []
    outFifo := []
    samples := 0#32
    segments := 0#32
    irqDone := false
    irqErr := false
    doneEn := false
    errEn := false
    code := .none
    ecmd := 0#32
    runEnd := if s.engine = .off then s.runEnd else .reset }

end Sys2Proof.Machine
end

