-- ==== Sys2Proof/Machine/StreamControl.lean ====
section
/-! DEFINITION. The family of spec/41_stream_control.md: the DRAIN command, the drain request and completion steps, the
illegal word, and the effects of the host's register writes (spec/41_stream_control.md R142 to R154). -/

namespace Sys2Proof.Machine

/-- DRAIN (R142): the decode step. R143 and R144 continue it. -/
def execDrain (s : State) : Host.Outcome State Fault Refusal :=
  .next { s with engine := .drain, dreq := false }

/-- The drain request step is enabled: DREQ = 0 and OutFifo is empty, in state DRAIN (R143). -/
def drainRequestEnabled (s : State) : Bool := !s.dreq && outEmpty s

/-- The drain request step (R143): DREQ <- 1. -/
def drainRequest (s : State) : State := { s with dreq := true }

/-- The drain completion step (R144): Close(), then IRQ_STATUS.DONE <- 1. CmdFifo is kept. -/
def drainComplete (s : State) : State := { closeRun .done s with irqDone := true }

/-- ILLEGAL (R145): the decode step of a word that is no command. -/
def illegalCommand (w : Word) (s : State) : State := fatal .illegalCommand w s

/-- Enable (R147): a write to CTRL with SRST = 0 and EN = 1, `avail` being snk_avail in that step. No effect while a run
is in progress or an error is latched (R198). -/
def enable (avail : Bool) (s : State) : State :=
  if s.engine ≠ .off then s
  else if s.code ≠ .none then s
  else if avail then startRun s
  else fatal .deviceUnavailable 0#32 s

/-- Abort (R148): a write to CTRL with SRST = EN = 0. No effect while OFF. -/
def abort (s : State) : State :=
  if s.engine ≠ .off then closeRun .aborted { s with cmdFifo := [] } else s

/-- A write of v to CTRL (R146): SRST first, then enable, then abort. -/
def writeCtrl (avail : Bool) (v : Word) (s : State) : State :=
  if v.getLsbD 1 then resetBlock s
  else if v.getLsbD 0 then enable avail s
  else abort s

/-- Bit 0 of a write to IRQ_STATUS (R150). -/
def clearDone (s : State) : State := { s with irqDone := false }

/-- A write of v to IRQ_STATUS (R150): a 1 clears, a 0 leaves. -/
def writeIrqStatus (v : Word) (s : State) : State :=
  let t := if v.getLsbD 0 then clearDone s else s
  if v.getLsbD 1 then clearError t else t

/-- A write of v to IRQ_ENABLE (R151). -/
def writeIrqEnable (v : Word) (s : State) : State :=
  { s with doneEn := v.getLsbD 0, errEn := v.getLsbD 1 }

/-- A write of w to CMD (R152): pushed when there is room, dropped when full and OFF, held (none) when full in a run. -/
def writeCmd (w : Word) (s : State) : Option State :=
  if cmdRoom s then some (pushCmd w s)
  else if s.engine = .off then some s
  else none

end Sys2Proof.Machine
end

