-- ==== Sys2Proof/Machine/Synthesis.lean ====
section
/-! DEFINITION. The family of spec/40_synthesis.md: the commands SETF, TONE and SIL (their decode steps) and the sample
steps of a segment. -/

namespace Sys2Proof.Machine

/-- SETF f (R116): FREQ <- f. STATE stays READY. Every f is legal. -/
def execSetf (f : Nat) (s : State) : Host.Outcome State Fault Refusal :=
  .next { s with freq := operand28 f }

/-- TONE n (R117): the decode step. The samples follow by R119. -/
def execTone (n : Nat) (s : State) : Host.Outcome State Fault Refusal :=
  .next (startSegment .tone (operand28 n) s)

/-- SIL n (R118): the decode step. The samples follow by R120. -/
def execSil (n : Nat) (s : State) : Host.Outcome State Fault Refusal :=
  .next (startSegment .sil (operand28 n) s)

/-- A sample step of a segment is enabled: REM > 0 and OutFifo has room (R119, R120, R123). -/
def sampleEnabled (s : State) : Bool := s.remain != 0#28 && outRoom s

/-- The sample a TONE step pushes: S(ACC) as 16 bits (R119). -/
def currentSample (s : State) : Sample := toU16 (sineSample s.cfg.rate s.acc.toNat)

/-- The TONE sample step (R119). -/
def toneSample (s : State) : State :=
  countSample (advancePhase (pushSample (currentSample s) s))

/-- The SIL sample step (R120): a zero sample, ACC unchanged. -/
def silSample (s : State) : State := countSample (pushSample 0#16 s)

end Sys2Proof.Machine
end

