-- ==== Sys2Proof/Machine/Dispatch.lean ====
section
/-! DEFINITION. One arm per command: its meaning, which is the effect of the engine decode step on the state after the
word has left CmdFifo (spec/41_stream_control.md R140). -/

namespace Sys2Proof.Machine

def exec (i : Instr) (s : State) : Host.Outcome State Fault Refusal :=
  match i with
  | .setf f => Sys2Proof.Machine.execSetf f s
  | .tone n => Sys2Proof.Machine.execTone n s
  | .sil n => Sys2Proof.Machine.execSil n s
  | .drain => Sys2Proof.Machine.execDrain s

end Sys2Proof.Machine
end

