-- ==== Sys2Proof/Machine/Engine.lean ====
section
/-! DEFINITION. The engine's steps (spec/41_stream_control.md R140, R141, R143; spec/40_synthesis.md R119, R120, R123). -/

namespace Sys2Proof.Machine

/-- The word `w` has left CmdFifo: a command takes its meaning, an illegal word raises ILLEGAL_COMMAND (R140, R145). -/
def runWord (w : Word) (s : State) : Host.Outcome State Fault Refusal :=
  match decode w with
  | .legal i => exec i s
  | .illegal _ => .next (illegalCommand w s)

/-- The engine decode step in READY (R140): without effect when CmdFifo is empty. -/
def decodeStep (s : State) : Host.Outcome State Fault Refusal :=
  match s.cmdFifo with
  | [] => .next s
  | w :: rest => runWord w { s with cmdFifo := rest }

/-- The engine has an enabled step (R119, R120, R123, R140, R141, R143). -/
def engineEnabled (s : State) : Bool :=
  match s.engine with
  | .off => false
  | .ready => !cmdEmpty s
  | .tone => sampleEnabled s
  | .sil => sampleEnabled s
  | .drain => drainRequestEnabled s

/-- The engine's step in the state it is in; without effect where none is enabled. -/
def engineStep (s : State) : Host.Outcome State Fault Refusal :=
  match s.engine with
  | .off => .next s
  | .ready => decodeStep s
  | .tone => .next (if sampleEnabled s then toneSample s else s)
  | .sil => .next (if sampleEnabled s then silSample s else s)
  | .drain => .next (if drainRequestEnabled s then drainRequest s else s)

end Sys2Proof.Machine
end

