-- ==== Sys2Proof/Machine/Registers.lean ====
section
/-! DEFINITION. The register window (spec/10_state.md R23 to R41): the sixteen registers, what a read of each returns and
what a write of each does. -/

namespace Sys2Proof.Machine

/-- The sixteen registers (R23). -/
inductive Reg where
  | id | rate | format | ctrl | status | irqStatus | irqEnable | errInfo
  | errCmd | cmd | level | freq | samples | segments | phase | remain
  deriving DecidableEq, Repr

/-- The register off[5:2] selects (R23, R61). -/
def Reg.ofIndex (i : BitVec 4) : Reg :=
  match i.toNat with
  | 0 => .id | 1 => .rate | 2 => .format | 3 => .ctrl
  | 4 => .status | 5 => .irqStatus | 6 => .irqEnable | 7 => .errInfo
  | 8 => .errCmd | 9 => .cmd | 10 => .level | 11 => .freq
  | 12 => .samples | 13 => .segments | 14 => .phase | _ => .remain

/-- The register's byte offset in the window (R23). -/
def Reg.offset : Reg → Nat
  | .id => 0x00 | .rate => 0x04 | .format => 0x08 | .ctrl => 0x0C
  | .status => 0x10 | .irqStatus => 0x14 | .irqEnable => 0x18 | .errInfo => 0x1C
  | .errCmd => 0x20 | .cmd => 0x24 | .level => 0x28 | .freq => 0x2C
  | .samples => 0x30 | .segments => 0x34 | .phase => 0x38 | .remain => 0x3C

/-- CTRL (R27): EN reads 1 exactly when STATE is not OFF; SRST reads 0. -/
def readCtrl (s : State) : Word := 0#30 ++ 0#1 ++ flagBit (snkOpen s)

/-- STATUS (R28). -/
def readStatus (s : State) : Word :=
  0#21 ++ flagBit (irqLine s) ++ flagBit (snkDrainReq s) ++ flagBit (snkOpen s) ++ flagBit (outFull s) ++
    flagBit (outEmpty s) ++ flagBit (cmdFull s) ++ flagBit (cmdEmpty s) ++ 0#1 ++ s.engine.bits

/-- LEVEL (R35): OUT_LEVEL above CMD_LEVEL. -/
def readLevel (s : State) : Word :=
  BitVec.ofNat 16 s.outFifo.length ++ BitVec.ofNat 16 s.cmdFifo.length

/-- What a read of the register returns (R24 to R40, R153). CMD is write-only and reads 0 (R34). -/
def readReg (r : Reg) (s : State) : Word :=
  match r with
  | .id => 0x4252#16 ++ 0x0007#16
  | .rate => BitVec.ofNat 32 s.cfg.rate
  | .format => 0x7FFF#16 ++ 0#6 ++ 1#1 ++ 0#1 ++ 2#4 ++ 1#4
  | .ctrl => readCtrl s
  | .status => readStatus s
  | .irqStatus => 0#30 ++ flagBit s.irqErr ++ flagBit s.irqDone
  | .irqEnable => 0#30 ++ flagBit s.errEn ++ flagBit s.doneEn
  | .errInfo => 0#28 ++ s.code.bits
  | .errCmd => s.ecmd
  | .cmd => 0#32
  | .level => readLevel s
  | .freq => 0#4 ++ s.freq
  | .samples => s.samples
  | .segments => s.segments
  | .phase => 0#8 ++ s.acc
  | .remain => 0#4 ++ s.remain

/-- A write of v to the register (R41, R66, R146 to R152): none when the write is held. Every register but CTRL,
IRQ_STATUS, IRQ_ENABLE and CMD ignores it. `avail` is snk_avail in the same step (R147). -/
def writeReg (avail : Bool) (r : Reg) (v : Word) (s : State) : Option State :=
  match r with
  | .ctrl => some (writeCtrl avail v s)
  | .irqStatus => some (writeIrqStatus v s)
  | .irqEnable => some (writeIrqEnable v s)
  | .cmd => writeCmd v s
  | .id | .rate | .format | .status | .errInfo | .errCmd | .level | .freq
  | .samples | .segments | .phase | .remain => some s

end Sys2Proof.Machine
end

