-- ==== Sys2Proof/Machine/HostPort.lean ====
section
/-! DEFINITION. The host's steps over the bus (spec/20_memory.md R60 to R70; spec/41_stream_control.md R146 to R153;
spec/30_encoding.md R98): one access a step, in program order. -/

namespace Sys2Proof.Machine

/-- What an access reaches. -/
inductive BusTarget where
  /-- The address is outside the window: not TSYN's (R61). -/
  | outside
  /-- In the window, of a width or alignment that is not defined (R62). -/
  | error
  /-- An aligned 32-bit access to this register (R61). -/
  | reg (r : Reg)
  deriving DecidableEq, Repr

/-- The decoding of an access (R60 to R62): off = addr - TSYN_BASE, off[5:2] selects, off[1:0] must be 0. -/
def busTarget (cfg : Config) (addr : Nat) (size : AccessSize) : BusTarget :=
  if addr < cfg.base ∨ cfg.base + 64 ≤ addr then .outside
  else if size ≠ .word ∨ (addr - cfg.base) % 4 ≠ 0 then .error
  else .reg (Reg.ofIndex (BitVec.ofNat 4 ((addr - cfg.base) / 4)))

/-- The answer to a read (R62, R153). A read has no other effect (R66). -/
def busRead (addr : Nat) (size : AccessSize) (s : State) : BusResponse :=
  match busTarget s.cfg addr size with
  | .outside => .notDecoded
  | .error => .busError 0#32
  | .reg r => .readData (readReg r s)

/-- The answer to a write and the state after it, none when the write is held (R62, R152). A write with fewer than all
four byte enables is a bus error and changes nothing (R62). -/
def busWrite (avail : Bool) (addr : Nat) (size : AccessSize) (lanes : Lanes) (s : State) :
    Option (State × BusResponse) :=
  match busTarget s.cfg addr size with
  | .outside => some (s, .notDecoded)
  | .error => some (s, .busError 0#32)
  | .reg r =>
    match wordOfLanes lanes with
    | none => some (s, .busError 0#32)
    | some v =>
      match writeReg avail r v s with
      | some t => some (t, .writeDone)
      | none => none

/-- The bus's answer, recorded for the host. -/
def answer (r : BusResponse) (s : State) : State := { s with busLog := s.busLog ++ [r] }

/-- The host goes on to its next operation. -/
def hostAdvance (rest : List HostOp) (s : State) : State := { s with hostQueue := rest }

/-- The host performs the operation at the head of its program, `rest` being what follows (R70). A held write stays at the
head and changes nothing (R152). WAIT_OFF reads STATUS and stays at the head while its bits 2:0 are not 0 (R98). -/
def hostPerform (avail : Bool) (op : HostOp) (rest : List HostOp) (s : State) : State :=
  match op with
  | .read addr size => hostAdvance rest (answer (busRead addr size s) s)
  | .write addr size lanes =>
    match busWrite avail addr size lanes s with
    | some (t, r) => hostAdvance rest (answer r t)
    | none => s
  | .waitOff =>
    let v := readReg .status s
    let t := answer (.readData v) s
    if v.extractLsb' 0 3 = 0#3 then hostAdvance rest t else t

/-- The host's step: nothing when its program has ended. -/
def hostStep (avail : Bool) (s : State) : State :=
  match s.hostQueue with
  | [] => s
  | op :: rest => hostPerform avail op rest s

/-- The access is a held write: its step is not enabled (R152). snk_avail plays no part in it. -/
def hostHeld (op : HostOp) (s : State) : Bool :=
  match op with
  | .write addr size lanes => (busWrite true addr size lanes s).isNone
  | .read _ _ => false
  | .waitOff => false

/-- The host has an enabled step: an access is left, and it is not a held write (R70, R152). -/
def hostEnabled (s : State) : Bool :=
  match s.hostQueue with
  | [] => false
  | op :: _ => !hostHeld op s

/-- MmioRead(off) of R16. -/
def mmioRead (cfg : Config) (off : Nat) : HostOp := .read (cfg.base + off) .word

/-- MmioWrite(off, v) of R16. -/
def mmioWrite (cfg : Config) (off : Nat) (v : Word) : HostOp := .write (cfg.base + off) .word (fullLanes v)

end Sys2Proof.Machine
end

