-- ==== Sys2Proof/Machine/SinkPort.lean ====
section
/-! DEFINITION. The sink port (spec/42_sample_datapath.md R170 to R185): the transfer of a frame with its two outcomes, the
stall, and the drain acknowledgement. -/

namespace Sys2Proof.Machine

/-- The two outcomes of a transfer (R172). -/
inductive SinkOutcome where
  | accept
  | fail
  deriving DecidableEq, Repr

/-- The outcome the port's levels give: FAIL whenever snk_fail is 1, ACCEPT when only snk_ready is, none for a stall
(R172, R175, R184). -/
def sinkOutcome (ready fail : Bool) : Option SinkOutcome :=
  if fail then some .fail else if ready then some .accept else none

/-- ACCEPT (R173): the head `f` leaves OutFifo, is logged and counted. -/
def acceptFrame (f : Sample) (rest : List Sample) (s : State) : State :=
  { s with outFifo := rest, sinkLog := s.sinkLog ++ [f], samples := s.samples + 1#32 }

/-- FAIL (R176): the fatal procedure; the frame is not logged and not counted. -/
def rejectFrame (s : State) : State := fatal .writeFailure 0#32 s

/-- The sink transfer step (R172): enabled when STATE is not OFF and OutFifo is not empty; without effect otherwise. -/
def sinkTransfer (ready fail : Bool) (s : State) : State :=
  if snkOpen s then
    match s.outFifo with
    | [] => s
    | f :: rest =>
      match sinkOutcome ready fail with
      | some .accept => acceptFrame f rest s
      | some .fail => rejectFrame s
      | none => s
  else s

/-- The drain acknowledgement (R144, R179): ignored unless STATE = DRAIN and DREQ = 1 (R180). -/
def sinkDrainAck (s : State) : State :=
  if s.engine = .drain ∧ s.dreq = true then drainComplete s else s

/-- A move of the sink. Half a frame is refused (R185). -/
def sinkStep (m : SinkMove) (s : State) : Host.Outcome State Fault Refusal :=
  match m with
  | .transfer ready fail => .next (sinkTransfer ready fail s)
  | .drainAck => .next (sinkDrainAck s)
  | .halfFrame => .refused .halfFrame

end Sys2Proof.Machine
end

