-- ==== Sys2Proof/Machine/Moves.lean ====
section
/-! DEFINITION. The moves of the agents (spec/00_scope.md R12, R13): what each does, the order of several events in one
clock (spec/60_exceptions.md R203), and which move comes when none is scheduled (spec/95_test_vectors.md section 6). -/

namespace Sys2Proof.Machine

/-- One outcome, then the next step on the state it gives. -/
def andThen (o : Host.Outcome State Fault Refusal) (f : State → Host.Outcome State Fault Refusal) :
    Host.Outcome State Fault Refusal :=
  match o with
  | .next s => f s
  | .fault r => .fault r
  | .refused r => .refused r

/-- The hardware reset (R230, R231). -/
def resetStep (s : State) : State := resetBlock s

/-- The sink's event of a clock, if any. -/
def sinkEvent (m : Option SinkMove) (s : State) : Host.Outcome State Fault Refusal :=
  match m with
  | none => .next s
  | some m => sinkStep m s

/-- The events of one clock, performed one by one: reset, then the host's access, then the sink, then the engine (R203).
An SRST and any other access are both the host's one access, so their order needs no case. -/
def clockStep (e : ClockEvents) (s : State) : Host.Outcome State Fault Refusal :=
  let afterReset := if e.reset then resetStep s else s
  let afterHost := if e.host then hostStep e.avail afterReset else afterReset
  andThen (sinkEvent e.sink afterHost) (fun t => if e.engine then engineStep t else .next t)

/-- One move (R12, R13). A move that its rule does not enable has no effect; the refusals are R185's and R209's. -/
def runMove (m : Move) (s : State) : Host.Outcome State Fault Refusal :=
  match m with
  | .reset => .next (resetStep s)
  | .host avail => .next (hostStep avail s)
  | .sink m => sinkStep m s
  | .engine => engineStep s
  | .clock e => clockStep e s
  | .otherHost _ => .refused .secondHost

/-- The Sink's move when none is scheduled: the offered frame accepted, the drain request acknowledged, and none at all of
a Sink that stalls for ever (R243). DESIGN CHOICE (notes/assumptions/3.md). -/
def eagerSinkMove (s : State) : Option SinkMove :=
  if s.sinkStalled then none
  else if snkValid s then some (.transfer true false)
  else if s.engine = .drain ∧ s.dreq = true then some .drainAck
  else none

/-- The move that comes when none is scheduled: the eager schedule of 95_test_vectors.md section 6 (a sink step whenever
one is enabled; then the engine; then the host, with a device present). DESIGN CHOICE (notes/assumptions/3.md): R13 allows
every order, and every order is some value of the field `schedule`. -/
def eagerMove (s : State) : Option Move :=
  match eagerSinkMove s with
  | some m => some (.sink m)
  | none =>
    if engineEnabled s then some .engine
    else if hostEnabled s then some (.host true)
    else none

end Sys2Proof.Machine
end

