-- ==== Sys2Proof/Machine/Step.lean ====
section
/-! DEFINITION. The step of the machine: one atomic move of one agent (spec/00_scope.md R13). TSYN has no program counter
(spec/10_state.md R21): the next command is the head of CmdFifo. -/

namespace Sys2Proof.Machine

/-- The next move is the head of the schedule, or, with none scheduled, the eager one. With no move left the machine is
idle when STATE is OFF (R211, R233) and stuck otherwise (R243, R245). -/
def step (s : State) : Host.Outcome State Fault Refusal :=
  match s.schedule with
  | m :: rest => runMove m { s with schedule := rest }
  | [] =>
    match eagerMove s with
    | some m => runMove m s
    | none => if s.engine = .off then .next s else .fault .stuck

/-- The state in which the very next step is the engine decode step of that word: a run in progress (READY), the word at
the head of CmdFifo in place of the one there, and the engine scheduled next (notes/assumptions/6.md). -/
def State.withFetchWord (s : State) (nbits w : Nat) : State :=
  { s with
    engine := .ready
    runEnd := .notEnded
    cmdFifo := tableWord nbits w :: s.cmdFifo.drop 1
    schedule := .engine :: s.schedule }

end Sys2Proof.Machine
end

