-- ==== Sys2Proof/Machine/Assembler.lean ====
section
/-! DEFINITION. The assembler (spec/30_encoding.md R97 to R99): command lines, host directives and pseudo-instructions, each
expanded to the host accesses it stands for, and the reading of a line of text. No step calls it: it makes the host's
program, which a loader places in `State.hostQueue`. -/

namespace Sys2Proof.Machine

/-- One line of an assembly program (R97, R98, R99). -/
inductive AsmLine where
  /-- A blank line or a comment. -/
  | blank
  /-- SETF f, TONE n, SIL n, DRAIN (R97). -/
  | command (i : Instr)
  /-- ENABLE: write 1 to CTRL (R98). -/
  | enable
  /-- ABORT: write 0 to CTRL (R98). -/
  | abort
  /-- SRST: write 2 to CTRL (R98). -/
  | srst
  /-- IRQEN m: write m to IRQ_ENABLE (R98). -/
  | irqEn (m : Nat)
  /-- ACK m: write m to IRQ_STATUS (R98). -/
  | ack (m : Nat)
  /-- WAIT_OFF (R98). -/
  | waitOff
  /-- .word w: write w to CMD, legal or not (R97, R98). -/
  | word (w : Nat)
  /-- SYNC nt, np (R99). -/
  | sync (nt np : Nat)
  /-- BIT b, n0, n1, np (R99). -/
  | bit (b : Bool) (n0 n1 np : Nat)
  /-- SEND nt, np, k, n0, n1, bits (R99). -/
  | send (nt np k n0 n1 : Nat) (bits : List Bool)
  deriving DecidableEq, Repr

/-- `SYNC nt, np`: one preamble repetition (R99). -/
def syncCommands (nt np : Nat) : List Instr := [.tone nt, .sil np]

/-- `BIT b, n0, n1, np`: a tone for both bit values, then the pause (R99; 90_conflicts.md C3). -/
def bitCommands (n0 n1 np : Nat) (b : Bool) : List Instr := [.tone (if b then n1 else n0), .sil np]

/-- `SEND nt, np, k, n0, n1, bits`: k preamble repetitions, one BIT per bit in order, then DRAIN (R99). -/
def sendCommands (nt np k n0 n1 : Nat) (bits : List Bool) : List Instr :=
  (List.replicate k (syncCommands nt np)).flatten ++ bits.flatMap (bitCommands n0 n1 np) ++ [.drain]

/-- The commands a line stands for, none for a directive. -/
def AsmLine.commands : AsmLine → List Instr
  | .command i => [i]
  | .sync nt np => syncCommands nt np
  | .bit b n0 n1 np => bitCommands n0 n1 np b
  | .send nt np k n0 n1 bits => sendCommands nt np k n0 n1 bits
  | .blank | .enable | .abort | .srst | .irqEn _ | .ack _ | .waitOff | .word _ => []

/-- The operands are in range: "The assembler refuses an operand outside 0..2^28-1" (R97), a pseudo-instruction's operands
and SEND's repeat count k among them (R99), IRQEN's and ACK's in 0..3 (R98), and .word's a u32 (R97). -/
def AsmLine.wellFormed : AsmLine → Bool
  | .irqEn m => decide (m ≤ 3)
  | .ack m => decide (m ≤ 3)
  | .word w => decide (w < 2 ^ 32)
  | .command i => i.wellFormed
  | .sync nt np => (AsmLine.sync nt np).commands.all Instr.wellFormed
  | .bit _ n0 n1 np => (bitCommands n0 n1 np false ++ bitCommands n0 n1 np true).all Instr.wellFormed
  | .send nt np k n0 n1 _ =>
    decide (k < operandBound) &&
      (syncCommands nt np ++ bitCommands n0 n1 np false ++ bitCommands n0 n1 np true).all Instr.wellFormed
  | .blank | .enable | .abort | .srst | .waitOff => true

/-- One write of a command's word to CMD (R90, R97). -/
def pushOp (cfg : Config) (i : Instr) : HostOp := mmioWrite cfg Reg.cmd.offset (encode i)

/-- The host accesses a line stands for (R97, R98, R99). -/
def AsmLine.expand (cfg : Config) : AsmLine → List HostOp
  | .blank => []
  | .command i => [pushOp cfg i]
  | .enable => [mmioWrite cfg Reg.ctrl.offset 0x00000001#32]
  | .abort => [mmioWrite cfg Reg.ctrl.offset 0x00000000#32]
  | .srst => [mmioWrite cfg Reg.ctrl.offset 0x00000002#32]
  | .irqEn m => [mmioWrite cfg Reg.irqEnable.offset (BitVec.ofNat 32 m)]
  | .ack m => [mmioWrite cfg Reg.irqStatus.offset (BitVec.ofNat 32 m)]
  | .waitOff => [.waitOff]
  | .word w => [mmioWrite cfg Reg.cmd.offset (BitVec.ofNat 32 w)]
  | .sync nt np => (syncCommands nt np).map (pushOp cfg)
  | .bit b n0 n1 np => (bitCommands n0 n1 np b).map (pushOp cfg)
  | .send nt np k n0 n1 bits => (sendCommands nt np k n0 n1 bits).map (pushOp cfg)

/-- Why the assembler refuses a line (R97). -/
inductive AsmError where
  /-- An unknown mnemonic. -/
  | unknownMnemonic
  /-- A missing or an extra operand. -/
  | operandCount
  /-- An operand that is no decimal integer, no hexadecimal integer and no 0/1 string. -/
  | badOperand
  /-- An operand out of its range. -/
  | operandRange
  deriving DecidableEq, Repr

/-- A space or a tab. -/
def isBlank (c : Char) : Bool := c == ' ' || c == '\t'

/-- The characters without leading and trailing blanks. -/
def trimBlanks (cs : List Char) : List Char :=
  ((cs.dropWhile isBlank).reverse.dropWhile isBlank).reverse

/-- The part of a line before its comment, which runs from `;` to the end of the line (R97). -/
def withoutComment (cs : List Char) : List Char := cs.takeWhile (fun c => c != ';')

/-- The pieces between commas. -/
def splitCommas : List Char → List (List Char)
  | [] => [[]]
  | c :: cs =>
    if c == ',' then [] :: splitCommas cs
    else
      match splitCommas cs with
      | [] => [[c]]
      | p :: ps => (c :: p) :: ps

/-- The operands after a mnemonic: none, or separated by commas (R97, R99). -/
def splitOperands (cs : List Char) : List (List Char) :=
  if trimBlanks cs = [] then [] else (splitCommas cs).map trimBlanks

/-- The value of a decimal or hexadecimal digit. -/
def digitValue (c : Char) : Nat :=
  if c.isDigit then c.toNat - '0'.toNat
  else if 'a' ≤ c ∧ c ≤ 'f' then c.toNat - 'a'.toNat + 10
  else if 'A' ≤ c ∧ c ≤ 'F' then c.toNat - 'A'.toNat + 10
  else 16

/-- A number in a base, most significant digit first. -/
def numberIn (base : Nat) : List Char → Nat → Option Nat
  | [], acc => some acc
  | c :: cs, acc => if digitValue c < base then numberIn base cs (acc * base + digitValue c) else none

/-- A decimal integer, or a hexadecimal one with a 0x prefix (R97), where `_` is only a digit separator (R14). -/
def parseNumber (cs : List Char) : Option Nat :=
  match cs with
  | [] => none
  | '0' :: 'x' :: ds =>
    let digits := ds.filter (fun c => c != '_')
    if digits = [] then none else numberIn 16 digits 0
  | ds => numberIn 10 ds 0

/-- What stands between a pair of quotes around the whole operand, or the operand itself where it begins with no quote; none
for a quote without its pair and for an empty operand. DESIGN CHOICE (notes/assumptions/15.md): R99 gives SEND's string no
quotes, and 95_test_vectors.md writes it in a pair of them, the empty string too (W7, P7); the model takes both, and an
empty string only as a pair of quotes. -/
def unquote (cs : List Char) : Option (List Char) :=
  match cs with
  | [] => none
  | '"' :: ds =>
    match ds.reverse with
    | '"' :: es => some es.reverse
    | _ => none
  | ds => some ds

/-- The character 0 or 1 as a bit (R99). -/
def parseBit (c : Char) : Option Bool :=
  if c == '0' then some false else if c == '1' then some true else none

/-- SEND's string of the characters 0 and 1 (R99), in quotes or not; no quote stands inside it (notes/assumptions/15.md). -/
def parseBits (cs : List Char) : Option (List Bool) := (unquote cs).bind (fun ds => ds.mapM parseBit)

/-- All operands as numbers. -/
def parseNumbers (ops : List (List Char)) : Option (List Nat) := ops.mapM parseNumber

/-- A line whose operands are exactly the numbers `f` takes. -/
def withNumbers (ops : List (List Char)) (f : List Nat → Option AsmLine) : Except AsmError AsmLine :=
  match parseNumbers ops with
  | none => .error .badOperand
  | some ns =>
    match f ns with
    | some l => .ok l
    | none => .error .operandCount

/-- A line with no operand. -/
def withNone (ops : List (List Char)) (l : AsmLine) : Except AsmError AsmLine :=
  if ops = [] then .ok l else .error .operandCount

/-- A BIT line: its first operand is 0 or 1 (R99). -/
def bitLine (b n0 n1 np : Nat) : Except AsmError AsmLine :=
  if b ≤ 1 then .ok (.bit (b == 1) n0 n1 np) else .error .operandRange

/-- A mnemonic and its operands as a line (R97, R98, R99). -/
def parseOp (m : String) (ops : List (List Char)) : Except AsmError AsmLine :=
  if m = "SETF" then withNumbers ops (fun ns => match ns with | [f] => some (.command (.setf f)) | _ => none)
  else if m = "TONE" then withNumbers ops (fun ns => match ns with | [n] => some (.command (.tone n)) | _ => none)
  else if m = "SIL" then withNumbers ops (fun ns => match ns with | [n] => some (.command (.sil n)) | _ => none)
  else if m = "DRAIN" then withNone ops (.command .drain)
  else if m = "ENABLE" then withNone ops .enable
  else if m = "ABORT" then withNone ops .abort
  else if m = "SRST" then withNone ops .srst
  else if m = "WAIT_OFF" then withNone ops .waitOff
  else if m = "IRQEN" then withNumbers ops (fun ns => match ns with | [v] => some (.irqEn v) | _ => none)
  else if m = "ACK" then withNumbers ops (fun ns => match ns with | [v] => some (.ack v) | _ => none)
  else if m = ".word" then withNumbers ops (fun ns => match ns with | [v] => some (.word v) | _ => none)
  else if m = "SYNC" then withNumbers ops (fun ns => match ns with | [nt, np] => some (.sync nt np) | _ => none)
  else if m = "BIT" then
    match parseNumbers ops with
    | none => .error .badOperand
    | some [b, n0, n1, np] => bitLine b n0 n1 np
    | some _ => .error .operandCount
  else if m = "SEND" then
    match ops with
    | [nt, np, k, n0, n1, bits] =>
      match parseNumbers [nt, np, k, n0, n1], parseBits bits with
      | some [nt, np, k, n0, n1], some bs => .ok (.send nt np k n0 n1 bs)
      | _, _ => .error .badOperand
    | _ => .error .operandCount
  else .error .unknownMnemonic

/-- A line of text (R97): its mnemonic is what comes before the first blank. -/
def parseLine (line : List Char) : Except AsmError AsmLine :=
  let body := trimBlanks (withoutComment line)
  if body = [] then .ok .blank
  else
    parseOp (String.ofList (body.takeWhile (fun c => !isBlank c)))
      (splitOperands (body.dropWhile (fun c => !isBlank c)))

/-- The host accesses of one line of text, or why the assembler refuses it (R97). -/
def assembleLine (cfg : Config) (line : List Char) : Except AsmError (List HostOp) :=
  match parseLine line with
  | .error e => .error e
  | .ok l => if l.wellFormed then .ok (l.expand cfg) else .error .operandRange

/-- The host accesses of a program, one line after the other (R97). -/
def assemble (cfg : Config) : List (List Char) → Except AsmError (List HostOp)
  | [] => .ok []
  | l :: ls =>
    match assembleLine cfg l with
    | .error e => .error e
    | .ok ops =>
      match assemble cfg ls with
      | .error e => .error e
      | .ok more => .ok (ops ++ more)

/-- The program placed behind what the host still has to do: the load from outside the machine
(notes/assumptions/6.md). -/
def State.load (ops : List HostOp) (s : State) : State := { s with hostQueue := s.hostQueue ++ ops }

end Sys2Proof.Machine
end

