-- ==== Sys2Proof/Machine/HostProgram.lean ====
section
/-! DEFINITION. The host software of spec/41_stream_control.md R160 to R162, which the spec gives as informative and puts
outside the block (spec/00_scope.md R4): the BitEncoder, the sample counts and the host program. No step calls it. -/

namespace Sys2Proof.Machine

/-- The host's policy for code points of 256 and more, the OPEN parameter CODEPOINT_POLICY (92_eei_decisions.md D30). -/
inductive CodepointPolicy where
  | reject
  | truncate
  deriving DecidableEq, Repr

/-- The 8 bits of a code point, most significant first (R162). -/
def codeBits (c : Nat) : List Bool := (List.range 8).map (fun k => c.testBit (7 - k))

/-- The bits of a message, in input order (R162); none when the policy rejects a code point. -/
def encodeText (policy : CodepointPolicy) : List Nat → Option (List Bool)
  | [] => some []
  | c :: cs =>
    if 256 ≤ c ∧ policy = .reject then none
    else (encodeText policy cs).map (fun bits => codeBits c ++ bits)

/-- n = floor(d * R) for a duration of num/den seconds (R161). -/
def sampleCount (rate num den : Nat) : Nat := num * rate / den

/-- What the host program is made from (R160): the frequency, the counts of R161, and the bits. -/
structure Transmission where
  frequency : Nat
  nSync     : Nat
  nPause    : Nat
  syncCount : Nat
  nZero     : Nat
  nOne      : Nat
  bits      : List Bool
  deriving DecidableEq, Repr

/-- The host program of R160: ACK 3, IRQEN 3, ENABLE, SETF, SEND. -/
def hostProgram (t : Transmission) : List AsmLine :=
  [ .ack 3, .irqEn 3, .enable, .command (.setf t.frequency),
    .send t.nSync t.nPause t.syncCount t.nZero t.nOne t.bits ]

/-- Its accesses on a build. -/
def hostAccesses (cfg : Config) (t : Transmission) : List HostOp := (hostProgram t).flatMap (AsmLine.expand cfg)

end Sys2Proof.Machine
end

