-- ==== Sys2Proof/Safety.lean ====
section
/-! DEFINITION. The terms the claims use: the invariants of spec/10_state.md R47, the real-number law of
spec/40_synthesis.md R110, the sample sequences of R115, the enabling conditions of the agents (R245), and a
run's observable result (spec/42_sample_datapath.md R182). No step reads them. -/

namespace Sys2Proof.Machine

/-- The invariants of R47, with the ranges of the parameters (R5 to R9), the FIFO bounds (R42, R43), "ACC … stays 0" in a
SIL segment (R120), and what the model's record of the run's end shows (R182, R245; notes/assumptions/22.md). -/
structure State.Inv (s : State) : Prop where
  /-- The build's parameters are in range (R5 to R9). -/
  params : s.cfg.wf = true
  /-- (a): OFF means OutFifo empty. -/
  offOut : s.engine = .off → s.outFifo = []
  /-- (a): OFF means DREQ = 0. -/
  offDreq : s.engine = .off → s.dreq = false
  /-- (b), and with it the REM = 0 of (a): STATE is TONE or SIL if and only if REM > 0. -/
  segment : (s.engine = .tone ∨ s.engine = .sil) ↔ 0 < s.remain.toNat
  /-- (c): DREQ = 1 means STATE = DRAIN and OutFifo empty. -/
  drain : s.dreq = true → s.engine = .drain ∧ s.outFifo = []
  /-- (d): a latched error means OFF. -/
  latched : s.code ≠ .none → s.engine = .off
  /-- (e): CODE = 3 means ECMD is an illegal word. -/
  illegal : s.code = .illegalCommand → illegalWord s.ecmd = true
  /-- (e): CODE other than 3 means ECMD = 0. -/
  noWord : s.code ≠ .illegalCommand → s.ecmd = 0#32
  /-- (f): 0 <= ACC < R. -/
  phase : s.acc.toNat < s.cfg.rate
  /-- (g): IRQ_STATUS.ERR = 1 if and only if CODE is not 0. -/
  err : s.irqErr = true ↔ s.code ≠ .none
  /-- CmdFifo holds at most CMD_DEPTH words (R42). -/
  cmdBound : s.cmdFifo.length ≤ s.cfg.cmdDepth
  /-- OutFifo holds at most OUT_DEPTH samples (R43). -/
  outBound : s.outFifo.length ≤ s.cfg.outDepth
  /-- ACC is 0 in a SIL segment (R118, R120). -/
  silPhase : s.engine = .sil → s.acc = 0#24
  /-- A run has not ended if and only if STATE is not OFF (R245); that the record says so is notes/assumptions/22.md. -/
  running : s.runEnd = .notEnded ↔ s.engine ≠ .off
  /-- A latched error is how the latest run ended (R182 (b), R198, R245), a failed enable counted as a run that ended so
  (notes/assumptions/22.md). -/
  lastError : s.code ≠ .none → s.runEnd = .error s.code s.ecmd

/-- `v` is round_away(32767 * sin(2 * pi * a / rate)) in exact real arithmetic (R15, R110). -/
def ExactSample (rate a : Nat) (v : Int) : Prop :=
  let x : ℝ := 32767 * Real.sin (2 * Real.pi * a / rate)
  (0 ≤ x → v = ⌊x + 1 / 2⌋) ∧ (x < 0 → v = -⌊-x + 1 / 2⌋)

/-- tone_samples(f, n) of R115, as the 16-bit samples pushed. -/
def toneSamples (rate f n : Nat) : List Sample :=
  (List.range n).map (fun k => toU16 (sineSample rate (k * f % rate)))

/-- sil_samples(n) of R115. -/
def silSamples (n : Nat) : List Sample := List.replicate n 0#16

/-- The samples the queued words still have to give, from frequency `freq` on: the concatenation of R115 up to the DRAIN
that ends the run, or up to the illegal word that does. -/
def streamOf (rate : Nat) : (freq : Operand) → List Word → List Sample
  | _, [] => []
  | freq, w :: ws =>
    match decode w with
    | .legal (.setf f) => streamOf rate (operand28 f) ws
    | .legal (.tone n) => toneSamples rate freq.toNat n ++ streamOf rate freq ws
    | .legal (.sil n) => silSamples n ++ streamOf rate freq ws
    | .legal .drain => []
    | .illegal _ => []

/-- The samples still to come of the segment in progress (R114, R119, R120). -/
def segmentRest (s : State) : List Sample :=
  match s.engine with
  | .tone =>
    (List.range s.remain.toNat).map
      (fun k => toU16 (sineSample s.cfg.rate ((s.acc.toNat + k * s.freq.toNat) % s.cfg.rate)))
  | .sil => silSamples s.remain.toNat
  | .off | .ready | .drain => []

/-- The samples of the words still queued for this run. After DRAIN is decoded, and while OFF, what is queued belongs to a
later run (R142, R144). -/
def queuedRest (s : State) : List Sample :=
  match s.engine with
  | .ready | .tone | .sil => streamOf s.cfg.rate s.freq s.cmdFifo
  | .off | .drain => []

/-- What SinkLog holds at the end of the run in progress if nothing cuts it short: the frames accepted, the frames in
OutFifo, the rest of the segment and the queued commands' samples, in that order (R72, R115, R182). -/
def promisedLog (s : State) : List Sample := s.sinkLog ++ s.outFifo ++ segmentRest s ++ queuedRest s

/-- The state with `m` as the very next move. -/
def State.scheduled (m : Move) (s : State) : State := { s with schedule := m :: s.schedule }

/-- The state with `op` as the host's next operation. -/
def State.hostNext (op : HostOp) (s : State) : State := { s with hostQueue := op :: s.hostQueue }

/-- A move that performs the events of one agent only, so that its cause can be told from its effect (R13, R203). -/
def Move.single : Move → Bool
  | .clock _ => false
  | .reset | .host _ | .sink _ | .engine | .otherHost _ => true

/-- A move that neither resets, nor fails a frame, nor lets the host act: the engine, an accepted frame or a stall, the
drain acknowledgement (R175, R183). -/
def Move.undisturbed : Move → Bool
  | .engine => true
  | .sink (.transfer _ fail) => !fail
  | .sink .drainAck => true
  | .reset | .host _ | .sink .halfFrame | .clock _ | .otherHost _ => false

/-- The host's next access is a whole-word write of `v` at this offset (R16, R70). -/
def State.hostWrites (s : State) (off : Nat) (v : Word) : Prop :=
  ∃ rest, s.hostQueue = mmioWrite s.cfg off v :: rest

/-- A move of the host. -/
def Move.isHost : Move → Bool
  | .host _ => true
  | .reset | .sink _ | .engine | .clock _ | .otherHost _ => false

/-- The state with the words `ws` queued behind the others. -/
def State.queueing (ws : List Word) (s : State) : State := { s with cmdFifo := s.cmdFifo ++ ws }

/-- The Sink has an enabled step: a frame is offered (R172), or a drain acknowledgement is awaited (R144). That one which
stalls for ever (R243) has none, by the field `sinkStalled`, is the model's choice (notes/assumptions/13.md). -/
def State.sinkCanMove (s : State) : Prop :=
  s.sinkStalled = false ∧ ((s.engine ≠ .off ∧ s.outFifo ≠ []) ∨ (s.engine = .drain ∧ s.dreq = true))

/-- The engine has an enabled step: a decode step (R140), a sample step (R119, R120), the drain request step (R143). -/
def State.engineCanMove (s : State) : Prop :=
  (s.engine = .ready ∧ s.cmdFifo ≠ []) ∨
  ((s.engine = .tone ∨ s.engine = .sil) ∧ 0 < s.remain.toNat ∧ s.outFifo.length < s.cfg.outDepth) ∨
  (s.engine = .drain ∧ s.dreq = false ∧ s.outFifo = [])

/-- The host's next access is a write to CMD that R152 holds: CmdFifo is full, in a run. -/
def State.heldWrite (s : State) : Prop :=
  (∃ w, s.hostWrites 0x24 w) ∧ s.engine ≠ .off ∧ ¬ s.cmdFifo.length < s.cfg.cmdDepth

/-- The host has an enabled step: it has an access left, and that is not a held write (R70, R152). -/
def State.hostCanMove (s : State) : Prop := s.hostQueue ≠ [] ∧ ¬ s.heldWrite

/-- No agent has an enabled step (R245), by the enabling conditions of the rules and the Sink's `sinkStalled`. -/
def State.noMove (s : State) : Prop := ¬ s.sinkCanMove ∧ ¬ s.engineCanMove ∧ ¬ s.hostCanMove

/-- The observable result of a run (R182): SinkLog, how the run ended (an error with its CODE and ERRCMD), and the registers
SAMPLES, SEGMENTS, FREQ and PHASE. -/
def observation (s : State) : List Sample × RunEnd × List Word :=
  (s.sinkLog, s.runEnd, [Reg.samples, Reg.segments, Reg.freq, Reg.phase].map (fun r => readReg r s))

end Sys2Proof.Machine
end

