-- ==== Sys2Proof/Certificates/Slice0/Obligations.lean ====
section
/-! DEFINITION. The statements for the provers. Each docstring names the rules of spec/ it formalises, or says which clause
is the model's own. A statement about one move of one agent puts it first in the schedule (`State.scheduled`), and a
statement about a host access puts it first in the host's program (`State.hostNext`). -/

open Sys2Proof Sys2Proof.Machine

/-- Decode and encode agree (spec/30_encoding.md R96, whose round trip the spec marks derived): the words of the four
encodings, decode (enc c) = c for every legal command, enc is injective, and an operand of 2^28 or more has no encoding and
is refused by the assembler. -/
def Obligations.EncodeDecodeRoundTrip : Prop :=
  (∀ n : Nat, n < 2 ^ 28 →
    (encode (.setf n)).toNat = 0x10000000 + n ∧ (encode (.tone n)).toNat = 0x20000000 + n ∧
    (encode (.sil n)).toNat = 0x30000000 + n ∧ (encode .drain).toNat = 0x40000000) ∧
  (∀ i : Instr, i.wellFormed = true → decode (encode i) = .legal i) ∧
  (∀ i j : Instr, i.wellFormed = true → j.wellFormed = true → encode i = encode j → i = j) ∧
  (∀ n : Nat, 2 ^ 28 ≤ n → ∀ i : Instr, i = .setf n ∨ i = .tone n ∨ i = .sil n →
    (∀ w : Word, decode w ≠ .legal i) ∧
    (∀ (cfg : Config) (line : List Char), parseLine line = .ok (.command i) →
      assembleLine cfg line = .error .operandRange))

/-- The decoder's clauses, for every word (spec/30_encoding.md R95, which the spec marks derived); a word that is a command
is the encoding of that one command, so that the two cases cannot overlap. -/
def Obligations.DecodingIsTotalAndUnique : Prop :=
  ∀ w : Word,
    (opField w = 1#4 → decode w = .legal (.setf (argField w).toNat)) ∧
    (opField w = 2#4 → decode w = .legal (.tone (argField w).toNat)) ∧
    (opField w = 3#4 → decode w = .legal (.sil (argField w).toNat)) ∧
    (opField w = 4#4 ∧ argField w = 0#28 → decode w = .legal .drain) ∧
    (¬(opField w = 1#4 ∨ opField w = 2#4 ∨ opField w = 3#4 ∨ (opField w = 4#4 ∧ argField w = 0#28)) →
      ∃ why, decode w = .illegal why) ∧
    (∀ i : Instr, decode w = .legal i → i.wellFormed = true ∧ encode i = w)

/-- R93: which words are SETF, TONE, SIL and DRAIN, by mask and match, with the operand ARG. -/
def Obligations.OpcodeMapDecides : Prop :=
  ∀ w : Word,
    ((∃ f, decode w = .legal (.setf f)) ↔ w &&& 0xF0000000#32 = 0x10000000#32) ∧
    ((∃ n, decode w = .legal (.tone n)) ↔ w &&& 0xF0000000#32 = 0x20000000#32) ∧
    ((∃ n, decode w = .legal (.sil n)) ↔ w &&& 0xF0000000#32 = 0x30000000#32) ∧
    (decode w = .legal .drain ↔ w = 0x40000000#32) ∧
    (∀ n : Nat, decode w = .legal (.setf n) ∨ decode w = .legal (.tone n) ∨ decode w = .legal (.sil n) →
      n = (w &&& 0x0FFFFFFF#32).toNat) ∧
    (∀ i : Instr, decode w = .legal i →
      (opcodeMap.filter (fun r => r.covers w)).map OpcodeRow.mnemonic = [i.mnemonic])

/-- R94: every other word is illegal, clause by clause; a push takes any word alike; and the engine's decoding of an
illegal word raises ILLEGAL_COMMAND. -/
def Obligations.IllegalWordsFault : Prop :=
  (∀ w : Word, illegalWord w = true ↔
    opField w = 0#4 ∨ 5 ≤ (opField w).toNat ∨ (opField w = 4#4 ∧ argField w ≠ 0#28)) ∧
  (∀ (w : Word) (s : State), s.cmdFifo.length < s.cfg.cmdDepth →
    writeCmd w s = some { s with cmdFifo := s.cmdFifo ++ [w] }) ∧
  (∀ (w : Word) (rest : List Word) (s : State), illegalWord w = true → s.engine = .ready → s.cmdFifo = w :: rest →
    ∃ t, step (s.scheduled .engine) = .next t ∧ t.code = .illegalCommand ∧ t.ecmd = w ∧ t.irqErr = true ∧
      t.cmdFifo = [] ∧ t.outFifo = [] ∧ t.engine = .off)

/-- Words written out from the encodings of R93 (the vectors V4) decode to what they stand for. -/
def Obligations.WrittenOutWordsDecode : Prop :=
  decode 0x10002B11#32 = .legal (.setf 11025) ∧ decode 0x20015888#32 = .legal (.tone 88200) ∧
  decode 0x30005622#32 = .legal (.sil 22050) ∧ decode 0x40000000#32 = .legal .drain ∧
  decode 0x1FFFFFFF#32 = .legal (.setf 268435455) ∧ decode 0x40000001#32 = .illegal .drainArg ∧
  decode 0x00000000#32 = .illegal .opZero ∧ decode 0xF0000000#32 = .illegal .opUnassigned

/-- R110 at the default build's R = 44100: the model's integer computation is round_away(32767 * sin(2 * pi * a / R)) in
exact real arithmetic, at every phase index. -/
def Obligations.SineExactAtDefaultRate : Prop :=
  ∀ a : Nat, a < 44100 → ExactSample 44100 a (sineSample 44100 a)

/-- R112: "The value it produces for every a in 0..R-1 must equal S(a) of rule R110", for every R of R5. -/
def Obligations.SineExactAtEveryRate : Prop :=
  ∀ rate a : Nat, 1 ≤ rate → rate < 2 ^ 24 → a < rate → ExactSample rate a (sineSample rate a)

/-- The properties (a) to (f) of S that the spec derives from R110 (spec/40_synthesis.md R111), for every R of R5. -/
def Obligations.SineSymmetries : Prop :=
  ∀ rate : Nat, 1 ≤ rate → rate < 2 ^ 24 →
    (∀ a, a < rate → -32767 ≤ sineSample rate a ∧ sineSample rate a ≤ 32767) ∧
    sineSample rate 0 = 0 ∧
    (∀ a, a < rate → sineSample rate ((rate - a) % rate) = -sineSample rate a) ∧
    (2 ∣ rate → (∀ a, a ≤ rate / 2 → sineSample rate ((rate / 2 - a) % rate) = sineSample rate a) ∧
      sineSample rate (rate / 2) = 0) ∧
    (4 ∣ rate → sineSample rate (rate / 4) = 32767 ∧ sineSample rate (3 * rate / 4) = -32767) ∧
    ((List.range rate).map (sineSample rate)).sum = 0

/-- The corner cases of SETF that the spec derives from R114 (spec/40_synthesis.md R116): a frequency that is a multiple of
R gives all-zero tones, and f >= R aliases to f mod R. -/
def Obligations.FrequencyAliases : Prop :=
  ∀ rate f n : Nat, 1 ≤ rate →
    toneSamples rate f n = toneSamples rate (f % rate) n ∧
    (f % rate = 0 → toneSamples rate f n = silSamples n)

/-- SETF completes in every state, with every encodable operand: FREQ <- f, the FREQ register reads f, nothing else
changes (R116, decode step). -/
def Obligations.SetfSetsFrequency : Prop :=
  ∀ (f : Nat) (s : State), f < 2 ^ 28 →
    ∃ t, exec (.setf f) s = .next t ∧ t.freq.toNat = f ∧ (readReg .freq t).toNat = f ∧ t = { s with freq := t.freq }

/-- TONE completes in every state, with every encodable operand: a segment of no samples completes at once, any other
starts at phase 0 with REM = n and STATE = TONE; nothing else changes (R117, decode step). -/
def Obligations.ToneStartsSegment : Prop :=
  ∀ (n : Nat) (s : State), n < 2 ^ 28 →
    ∃ t, exec (.tone n) s = .next t ∧
      (n = 0 → t = { s with acc := 0#24, segments := s.segments + 1#32 }) ∧
      (n ≠ 0 → t.remain.toNat = n ∧ t = { s with acc := 0#24, remain := t.remain, engine := .tone })

/-- SIL completes in every state, with every encodable operand, in the same way with STATE = SIL (R118, decode step). -/
def Obligations.SilStartsSegment : Prop :=
  ∀ (n : Nat) (s : State), n < 2 ^ 28 →
    ∃ t, exec (.sil n) s = .next t ∧
      (n = 0 → t = { s with acc := 0#24, segments := s.segments + 1#32 }) ∧
      (n ≠ 0 → t.remain.toNat = n ∧ t = { s with acc := 0#24, remain := t.remain, engine := .sil })

/-- A TONE or SIL with n = 0 completes in its own decode step: SEGMENTS is incremented, no sample is pushed, ACC is 0, STATE
stays READY (spec/40_synthesis.md R122, which the spec marks derived). -/
def Obligations.EmptySegmentCompletesAtDecode : Prop :=
  ∀ (i : Instr) (rest : List Word) (s : State), i = .tone 0 ∨ i = .sil 0 → s.engine = .ready →
    s.cmdFifo = encode i :: rest →
    step (s.scheduled .engine) =
      .next { s with cmdFifo := rest, acc := 0#24, segments := s.segments + 1#32 }

/-- DRAIN completes in every state: STATE <- DRAIN, DREQ <- 0, nothing else changes (R142, decode step). -/
def Obligations.DrainStarts : Prop :=
  ∀ s : State, ∃ t, exec .drain s = .next t ∧ t = { s with engine := .drain, dreq := false }

/-- The frame of the four commands, by the registers a host can read: from READY, SETF changes FREQ only; TONE and SIL
change STATUS, SEGMENTS, PHASE and REMAIN at most; DRAIN changes STATUS only. The FIFOs' contents, SinkLog and the
parameters stay. -/
def Obligations.CommandsChangeOnlyTheirRegisters : Prop :=
  ∀ (i : Instr) (s : State), s.engine = .ready →
    ∃ t, exec i s = .next t ∧
      (∀ r : Reg, readReg r t ≠ readReg r s →
        match i with
        | .setf _ => r = .freq
        | .tone _ => r = .status ∨ r = .segments ∨ r = .phase ∨ r = .remain
        | .sil _ => r = .status ∨ r = .segments ∨ r = .phase ∨ r = .remain
        | .drain => r = .status) ∧
      t.cmdFifo = s.cmdFifo ∧ t.outFifo = s.outFifo ∧ t.sinkLog = s.sinkLog ∧ t.cfg = s.cfg ∧
      t.hostQueue = s.hostQueue ∧ t.busLog = s.busLog ∧ t.schedule = s.schedule ∧ t.sinkStalled = s.sinkStalled ∧
      t.runEnd = s.runEnd

/-- R140: the engine decode step in READY: the head of CmdFifo is popped, a command takes its meaning, an illegal word
raises the fatal error; with CmdFifo empty the engine has no step. -/
def Obligations.EngineDecodesTheHead : Prop :=
  ∀ s : State, s.engine = .ready →
    (s.cmdFifo = [] → step (s.scheduled .engine) = .next s) ∧
    (∀ (w : Word) (rest : List Word), s.cmdFifo = w :: rest →
      (∀ i : Instr, decode w = .legal i → step (s.scheduled .engine) = exec i { s with cmdFifo := rest }) ∧
      (∀ why, decode w = .illegal why →
        step (s.scheduled .engine) = .next (fatal .illegalCommand w { s with cmdFifo := rest })))

/-- A step runs the decoded command: with nothing scheduled and no frame offered, the step in READY is exec of the command
at the head of CmdFifo on the state without that word. (That the engine moves first there is the model's choice,
notes/assumptions/3.md.) -/
def Obligations.StepRunsDecodedCommand : Prop :=
  ∀ (s : State) (w : Word) (rest : List Word) (i : Instr), s.schedule = [] → s.engine = .ready → s.outFifo = [] →
    s.cmdFifo = w :: rest → decode w = .legal i → step s = exec i { s with cmdFifo := rest }

/-- While STATE = OFF the engine takes no step, and a successful enable keeps the queued commands (R141, R147). -/
def Obligations.OffEngineTakesNoStep : Prop :=
  ∀ s : State, s.engine = .off →
    step (s.scheduled .engine) = .next s ∧
    (s.code = .none → (enable true s).cmdFifo = s.cmdFifo ∧ (enable true s).engine = .ready)

/-- R119: the TONE sample step, enabled when STATE = TONE, REM > 0 and OutFifo has room, and nothing else changes; where it
is not enabled the engine has no step. -/
def Obligations.ToneSampleStep : Prop :=
  ∀ s : State, s.cfg.wf = true → s.engine = .tone →
    (0 < s.remain.toNat ∧ s.outFifo.length < s.cfg.outDepth →
      ∃ t, step (s.scheduled .engine) = .next t ∧
        t.outFifo = s.outFifo ++ [toU16 (sineSample s.cfg.rate s.acc.toNat)] ∧
        t.acc.toNat = (s.acc.toNat + s.freq.toNat) % s.cfg.rate ∧
        t.remain.toNat + 1 = s.remain.toNat ∧
        (t.remain = 0#28 → t.segments = s.segments + 1#32 ∧ t.engine = .ready) ∧
        (t.remain ≠ 0#28 → t.segments = s.segments ∧ t.engine = .tone) ∧
        t = { s with outFifo := t.outFifo, acc := t.acc, remain := t.remain, segments := t.segments, engine := t.engine }) ∧
    (¬(0 < s.remain.toNat ∧ s.outFifo.length < s.cfg.outDepth) → step (s.scheduled .engine) = .next s)

/-- R120: the SIL sample step, in the same way with a zero sample and ACC unchanged, which is 0 in every state that meets
the invariant. -/
def Obligations.SilSampleStep : Prop :=
  ∀ s : State, s.engine = .sil →
    (0 < s.remain.toNat ∧ s.outFifo.length < s.cfg.outDepth →
      ∃ t, step (s.scheduled .engine) = .next t ∧
        t.outFifo = s.outFifo ++ [0#16] ∧ t.remain.toNat + 1 = s.remain.toNat ∧
        (s.Inv → t.acc = 0#24) ∧
        (t.remain = 0#28 → t.segments = s.segments + 1#32 ∧ t.engine = .ready) ∧
        (t.remain ≠ 0#28 → t.segments = s.segments ∧ t.engine = .sil) ∧
        t = { s with outFifo := t.outFifo, remain := t.remain, segments := t.segments, engine := t.engine }) ∧
    (¬(0 < s.remain.toNat ∧ s.outFifo.length < s.cfg.outDepth) → step (s.scheduled .engine) = .next s)

/-- A TONE segment of n samples that OutFifo can hold, run by n engine steps, pushes exactly tone_samples(FREQ, n), and
completes with the last push: STATE = READY, SEGMENTS + 1, ACC = (n * FREQ) mod R; nothing else changes (R114, R115,
R121). -/
def Obligations.ToneSegmentPushesItsSamples : Prop :=
  ∀ (n : Nat) (s : State), s.cfg.wf = true → s.engine = .tone → s.acc = 0#24 → s.remain.toNat = n → 0 < n →
    s.outFifo.length + n ≤ s.cfg.outDepth →
    ∃ t, Host.Core.run Sys2Proof.core n { s with schedule := List.replicate n .engine ++ s.schedule } = .next t ∧
      t.acc.toNat = n * s.freq.toNat % s.cfg.rate ∧
      t = { s with
        outFifo := s.outFifo ++ toneSamples s.cfg.rate s.freq.toNat n
        acc := t.acc
        remain := 0#28
        segments := s.segments + 1#32
        engine := .ready }

/-- A SIL segment of n samples that OutFifo can hold, run by n engine steps, pushes n zeros and completes (R115, R121). -/
def Obligations.SilSegmentPushesZeros : Prop :=
  ∀ (n : Nat) (s : State), s.engine = .sil → s.remain.toNat = n → 0 < n →
    s.outFifo.length + n ≤ s.cfg.outDepth →
    Host.Core.run Sys2Proof.core n { s with schedule := List.replicate n .engine ++ s.schedule } =
      .next { s with
        outFifo := s.outFifo ++ silSamples n
        remain := 0#28
        segments := s.segments + 1#32
        engine := .ready }

/-- On a DONE end SinkLog is exactly what the commands promised, whatever the order in which the agents moved: from every
state of a run that meets the invariant, with DONE clear, through any schedule of engine moves, accepted frames, stalls,
drain acknowledgements and host moves that push words (as many of them as there are words `ws` to push; a held one counts
too), if DONE is then set, SinkLog is the frames accepted before, then the frames in OutFifo, then the rest of the segment,
then the samples of the commands queued or pushed, up to DRAIN (R72, R115, R182). That the DONE end stands in `runEnd` is
the model's choice (notes/assumptions/22.md). -/
def Obligations.DoneRunDeliversThePromisedFrames : Prop :=
  ∀ (s t : State) (ws : List Word) (later : List HostOp), s.Inv → s.engine ≠ .off → s.irqDone = false →
    s.hostQueue = ws.map (mmioWrite s.cfg 0x24) ++ later →
    (∀ m ∈ s.schedule, m.undisturbed = true ∨ m.isHost = true) → (s.schedule.filter Move.isHost).length ≤ ws.length →
    Host.Core.run Sys2Proof.core s.schedule.length s = .next t → t.irqDone = true →
    t.sinkLog = promisedLog (s.queueing ws) ∧ t.runEnd = .done ∧
      t.samples = s.samples + BitVec.ofNat 32 (t.sinkLog.length - s.sinkLog.length)

/-- R143: the drain request step: DREQ <- 1 when STATE = DRAIN, DREQ = 0 and OutFifo is empty; not before. -/
def Obligations.DrainRequestStep : Prop :=
  ∀ s : State, s.engine = .drain → s.dreq = false →
    (s.outFifo = [] → step (s.scheduled .engine) = .next { s with dreq := true }) ∧
    (s.outFifo ≠ [] → step (s.scheduled .engine) = .next s)

/-- R144: the drain completion step is the sink's acknowledgement: Close(), then DONE <- 1; CmdFifo, CODE, SAMPLES,
SEGMENTS, FREQ and ACC stay; until then the engine has no step. (What the model's own record `runEnd` then holds is stated
by Obligations.RunEndsOnlyInFourWays.) -/
def Obligations.DrainCompletionStep : Prop :=
  ∀ s : State, s.engine = .drain → s.dreq = true →
    (∃ t, step (s.scheduled (.sink .drainAck)) = .next t ∧
      t = { s with
        outFifo := []
        remain := 0#28
        dreq := false
        engine := .off
        irqDone := true
        runEnd := t.runEnd }) ∧
    step (s.scheduled .engine) = .next s

/-- R180: an acknowledgement is ignored unless STATE = DRAIN and DREQ = 1. -/
def Obligations.StaleAcknowledgementIgnored : Prop :=
  ∀ s : State, ¬(s.engine = .drain ∧ s.dreq = true) → step (s.scheduled (.sink .drainAck)) = .next s

/-- R195: the fatal procedure. (Of the model's own record `runEnd` see Obligations.RunEndsOnlyInFourWays.) -/
def Obligations.FatalProcedure : Prop :=
  ∀ (code : ErrorCode) (info : Word) (s : State),
    fatal code info s =
      { s with
        code := code
        ecmd := info
        irqErr := true
        cmdFifo := []
        outFifo := []
        remain := 0#28
        dreq := false
        engine := .off
        runEnd := (fatal code info s).runEnd }

/-- R146: a write to CTRL is SRST, else enable, else abort; every other bit is ignored. -/
def Obligations.CtrlWriteOrder : Prop :=
  ∀ (s : State) (avail : Bool) (v : Word),
    ∃ t, step ((s.hostNext (mmioWrite s.cfg 0x0C v)).scheduled (.host avail)) = .next (answer .writeDone t) ∧
      (v.getLsbD 1 = true → t = resetBlock s) ∧
      (v.getLsbD 1 = false ∧ v.getLsbD 0 = true → t = enable avail s) ∧
      (v.getLsbD 1 = false ∧ v.getLsbD 0 = false → t = abort s)

/-- R147: the four outcomes of an enable, snk_avail being sampled in the same step. -/
def Obligations.EnableOutcomes : Prop :=
  ∀ (s : State) (avail : Bool) (v : Word), v.getLsbD 1 = false → v.getLsbD 0 = true →
    ∃ t, step ((s.hostNext (mmioWrite s.cfg 0x0C v)).scheduled (.host avail)) = .next (answer .writeDone t) ∧
    (s.engine ≠ .off → t = s) ∧
    (s.engine = .off ∧ s.code ≠ .none → t = s) ∧
    (s.engine = .off ∧ s.code = .none ∧ avail = false →
      t =
        { s with
          code := .deviceUnavailable
          ecmd := 0#32
          irqErr := true
          cmdFifo := []
          outFifo := []
          remain := 0#28
          dreq := false
          engine := .off
          runEnd := t.runEnd }) ∧
    (s.engine = .off ∧ s.code = .none ∧ avail = true →
      t = { s with engine := .ready, dreq := false, samples := 0#32, segments := 0#32, runEnd := t.runEnd })

/-- R148: an abort in a run clears CmdFifo and closes; while OFF it has no effect. It sets no flag and no code, and the
counters stay. -/
def Obligations.AbortEndsRun : Prop :=
  ∀ (s : State) (avail : Bool) (v : Word), v.getLsbD 0 = false → v.getLsbD 1 = false →
    ∃ t, step ((s.hostNext (mmioWrite s.cfg 0x0C v)).scheduled (.host avail)) = .next (answer .writeDone t) ∧
      (s.engine ≠ .off →
        t = { s with
          cmdFifo := []
          outFifo := []
          remain := 0#28
          dreq := false
          engine := .off
          runEnd := t.runEnd }) ∧
      (s.engine = .off → t = s)

/-- R149: a write to CTRL with bit 1 set puts every piece of block state to its reset value, whatever STATE is; no
interrupt is raised, and CTRL then reads 0. -/
def Obligations.SoftResetGivesResetState : Prop :=
  ∀ (s : State) (avail : Bool) (v : Word), v.getLsbD 1 = true →
    ∃ t, step ((s.hostNext (mmioWrite s.cfg 0x0C v)).scheduled (.host avail)) = .next (answer .writeDone t) ∧
      t = { State.reset with
        cfg := s.cfg
        sinkLog := s.sinkLog
        hostQueue := s.hostQueue
        busLog := s.busLog
        schedule := s.schedule
        sinkStalled := s.sinkStalled
        runEnd := t.runEnd } ∧
      readReg .ctrl t = 0#32 ∧ irqLine t = false

/-- R150: a write to IRQ_STATUS clears the flags whose bit is 1, and through ERR the error latch; nothing else changes. -/
def Obligations.IrqStatusWriteOneToClear : Prop :=
  ∀ (s : State) (avail : Bool) (v : Word),
    ∃ t, step ((s.hostNext (mmioWrite s.cfg 0x14 v)).scheduled (.host avail)) = .next (answer .writeDone t) ∧
      t.irqDone = (if v.getLsbD 0 then false else s.irqDone) ∧
      t.irqErr = (if v.getLsbD 1 then false else s.irqErr) ∧
      t.code = (if v.getLsbD 1 then .none else s.code) ∧
      t.ecmd = (if v.getLsbD 1 then 0#32 else s.ecmd) ∧
      t = { s with irqDone := t.irqDone, irqErr := t.irqErr, code := t.code, ecmd := t.ecmd }

/-- R151: a write to IRQ_ENABLE sets the two enables from bits 0 and 1; the irq output follows at once. -/
def Obligations.IrqEnableWrite : Prop :=
  ∀ (s : State) (avail : Bool) (v : Word),
    ∃ t, step ((s.hostNext (mmioWrite s.cfg 0x18 v)).scheduled (.host avail)) = .next (answer .writeDone t) ∧
      t = { s with doneEn := v.getLsbD 0, errEn := v.getLsbD 1 } ∧
      irqLine t = ((s.irqDone && v.getLsbD 0) || (s.irqErr && v.getLsbD 1))

/-- R152: a write to CMD is pushed when there is room, dropped when CmdFifo is full and STATE = OFF, and held (the host's
program does not move on, nothing changes) when it is full in a run. -/
def Obligations.CmdWriteCases : Prop :=
  ∀ (s : State) (avail : Bool) (w : Word),
    (s.cmdFifo.length < s.cfg.cmdDepth →
      step ((s.hostNext (mmioWrite s.cfg 0x24 w)).scheduled (.host avail)) =
        .next (answer .writeDone { s with cmdFifo := s.cmdFifo ++ [w] })) ∧
    (¬ s.cmdFifo.length < s.cfg.cmdDepth ∧ s.engine = .off →
      step ((s.hostNext (mmioWrite s.cfg 0x24 w)).scheduled (.host avail)) = .next (answer .writeDone s)) ∧
    (¬ s.cmdFifo.length < s.cfg.cmdDepth ∧ s.engine ≠ .off →
      step ((s.hostNext (mmioWrite s.cfg 0x24 w)).scheduled (.host avail)) =
        .next (s.hostNext (mmioWrite s.cfg 0x24 w)))

/-- R153: a host read returns the register's value in the current state and changes no state, each of the sixteen registers
at its own offset (the table of spec/10_state.md R23), which is the offset the writes of the other statements name too; CMD
reads 0. -/
def Obligations.ReadReturnsRegister : Prop :=
  ∀ (s : State) (avail : Bool) (r : Reg) (off : Nat),
    off =
      (match r with
      | .id => 0x00 | .rate => 0x04 | .format => 0x08 | .ctrl => 0x0C
      | .status => 0x10 | .irqStatus => 0x14 | .irqEnable => 0x18 | .errInfo => 0x1C
      | .errCmd => 0x20 | .cmd => 0x24 | .level => 0x28 | .freq => 0x2C
      | .samples => 0x30 | .segments => 0x34 | .phase => 0x38 | .remain => 0x3C) →
    step ((s.hostNext (mmioRead s.cfg off)).scheduled (.host avail)) = .next (answer (.readData (readReg r s)) s) ∧
    r.offset = off ∧
    readReg .cmd s = 0#32

/-- A write to an RO register changes no state and completes normally; ID, RATE and FORMAT keep their values (R24, R25,
R26, R41). -/
def Obligations.ReadOnlyWritesIgnored : Prop :=
  ∀ (s : State) (avail : Bool) (v : Word) (r : Reg),
    r ≠ .ctrl → r ≠ .irqStatus → r ≠ .irqEnable → r ≠ .cmd →
    step ((s.hostNext (mmioWrite s.cfg r.offset v)).scheduled (.host avail)) = .next (answer .writeDone s) ∧
    readReg .id s = 0x42520007#32 ∧ readReg .format s = 0x7FFF0221#32 ∧
    (s.cfg.wf = true → (readReg .rate s).toNat = s.cfg.rate)

/-- An access of 8 or 16 bits, a misaligned one, and a write with a byte enable off are answered with a bus error and change
no state; the data of a bus error read is 0 (R62). That the answer to a write carries 0 too is the model's choice
(notes/assumptions/10.md). -/
def Obligations.UndefinedAccessesAreBusErrors : Prop :=
  ∀ (s : State) (avail : Bool) (off : Nat) (size : AccessSize) (lanes : Lanes), off < 64 →
    (size ≠ .word ∨ off % 4 ≠ 0 →
      step ((s.hostNext (.read (s.cfg.base + off) size)).scheduled (.host avail)) =
        .next (answer (.busError 0#32) s)) ∧
    (size ≠ .word ∨ off % 4 ≠ 0 ∨ lanes.b0 = none ∨ lanes.b1 = none ∨ lanes.b2 = none ∨ lanes.b3 = none →
      step ((s.hostNext (.write (s.cfg.base + off) size lanes)).scheduled (.host avail)) =
        .next (answer (.busError 0#32) s))

/-- An access outside the window is not decoded and changes no state (R61; that its answer is recorded as not TSYN's is the
model's choice, notes/assumptions/7.md). -/
def Obligations.OutsideWindowNotDecoded : Prop :=
  ∀ (s : State) (avail : Bool) (addr : Nat) (size : AccessSize) (lanes : Lanes),
    addr < s.cfg.base ∨ s.cfg.base + 64 ≤ addr →
    step ((s.hostNext (.read addr size)).scheduled (.host avail)) = .next (answer .notDecoded s) ∧
    step ((s.hostNext (.write addr size lanes)).scheduled (.host avail)) = .next (answer .notDecoded s)

/-- While CODE is not 0 a write that would enable has no effect, whatever snk_avail is, and no move of one agent replaces the
latched code: CODE and ECMD stay, with STATE = OFF, or a reset, an SRST or a write of 1 to IRQ_STATUS.ERR clears them
(spec/60_exceptions.md R198, whose last clauses the spec marks derived, and R200). Several events of one clock are the moves
of one agent each, in order (Obligations.ClockPerformsEventsInOrder), so that a reset and a new error can meet there. -/
def Obligations.ErrorLatchHeldUntilCleared : Prop :=
  ∀ s : State, s.Inv → s.code ≠ .none →
    (∀ (avail : Bool) (v : Word), v.getLsbD 1 = false → v.getLsbD 0 = true →
      step ((s.hostNext (mmioWrite s.cfg 0x0C v)).scheduled (.host avail)) = .next (answer .writeDone s)) ∧
    (∀ (m : Move) (t : State), m.single = true → step (s.scheduled m) = .next t →
      (t.code = s.code ∧ t.ecmd = s.ecmd ∧ t.irqErr = true ∧ t.engine = .off) ∨
      (t.code = .none ∧ t.ecmd = 0#32 ∧ t.irqErr = false ∧ t.engine = .off ∧
        (m = .reset ∨ ∃ avail v, m = .host avail ∧ v.getLsbD 1 = true ∧ (s.hostWrites 0x14 v ∨ s.hostWrites 0x0C v))))

/-- The fields of STATUS, computed from the state at each read (R28; that writes are ignored and what reset leaves are stated
by Obligations.ReadOnlyWritesIgnored and Obligations.ResetStateAndRegisters). -/
def Obligations.StatusFields : Prop :=
  ∀ s : State,
    (readReg .status s).extractLsb' 0 3 =
      (match s.engine with | .off => 0#3 | .ready => 1#3 | .tone => 2#3 | .sil => 3#3 | .drain => 4#3) ∧
    (readReg .status s).getLsbD 3 = false ∧
    ((readReg .status s).getLsbD 4 = true ↔ s.cmdFifo.length = 0) ∧
    ((readReg .status s).getLsbD 5 = true ↔ s.cmdFifo.length = s.cfg.cmdDepth) ∧
    ((readReg .status s).getLsbD 6 = true ↔ s.outFifo.length = 0) ∧
    ((readReg .status s).getLsbD 7 = true ↔ s.outFifo.length = s.cfg.outDepth) ∧
    ((readReg .status s).getLsbD 8 = true ↔ s.engine ≠ .off) ∧
    (readReg .status s).getLsbD 9 = s.dreq ∧
    (readReg .status s).getLsbD 10 = ((s.irqDone && s.doneEn) || (s.irqErr && s.errEn)) ∧
    (readReg .status s).extractLsb' 11 21 = 0#21

/-- The values of the other registers, as numbers (R27, R30 to R33, R35 to R40). -/
def Obligations.RegisterReadValues : Prop :=
  ∀ s : State,
    (readReg .ctrl s).toNat = (if s.engine = .off then 0 else 1) ∧
    (readReg .irqStatus s).toNat = s.irqDone.toNat + 2 * s.irqErr.toNat ∧
    (readReg .irqEnable s).toNat = s.doneEn.toNat + 2 * s.errEn.toNat ∧
    (readReg .errInfo s).toNat =
      (match s.code with | .none => 0 | .deviceUnavailable => 1 | .writeFailure => 2 | .illegalCommand => 3) ∧
    readReg .errCmd s = s.ecmd ∧
    (s.Inv → (readReg .level s).toNat = s.cmdFifo.length + 65536 * s.outFifo.length) ∧
    (readReg .freq s).toNat = s.freq.toNat ∧
    readReg .samples s = s.samples ∧ readReg .segments s = s.segments ∧
    (readReg .phase s).toNat = s.acc.toNat ∧ (readReg .remain s).toNat = s.remain.toNat

/-- R48: after a hardware reset or an SRST the state holds the reset values, every register reads the value of R23's table
and every port is 0; SinkLog is not changed. -/
def Obligations.ResetStateAndRegisters : Prop :=
  ∀ s : State,
    ∃ t, step (s.scheduled .reset) = .next t ∧
      (∀ (avail : Bool) (v : Word), v.getLsbD 1 = true →
        step ((s.hostNext (mmioWrite s.cfg 0x0C v)).scheduled (.host avail)) = .next (answer .writeDone t)) ∧
      t.engine = .off ∧ t.dreq = false ∧ t.freq = 0#28 ∧ t.acc = 0#24 ∧ t.remain = 0#28 ∧ t.cmdFifo = [] ∧
      t.outFifo = [] ∧ t.samples = 0#32 ∧ t.segments = 0#32 ∧ t.irqDone = false ∧ t.irqErr = false ∧
      t.doneEn = false ∧ t.errEn = false ∧ t.code = .none ∧ t.ecmd = 0#32 ∧ t.sinkLog = s.sinkLog ∧
      (∀ r : Reg, s.cfg.wf = true →
        readReg r t =
          (match r with
          | .id => 0x42520007#32
          | .rate => BitVec.ofNat 32 s.cfg.rate
          | .format => 0x7FFF0221#32
          | .status => 0x00000050#32
          | _ => 0#32)) ∧
      snkOpen t = false ∧ snkValid t = false ∧ snkFrame t = 0#16 ∧ snkDrainReq t = false ∧ irqLine t = false

/-- R173: ACCEPT pops the head, logs it and counts it; nothing else changes, and an engine held on a full OutFifo is
enabled again. -/
def Obligations.AcceptedFrame : Prop :=
  ∀ (s : State) (f : Sample) (rest : List Sample), s.engine ≠ .off → s.outFifo = f :: rest →
    ∃ t, step (s.scheduled (.sink (.transfer true false))) = .next t ∧
      t = { s with outFifo := rest, sinkLog := s.sinkLog ++ [f], samples := s.samples + 1#32 } ∧
      ((s.engine = .tone ∨ s.engine = .sil) ∧ s.remain ≠ 0#28 ∧ s.outFifo.length = s.cfg.outDepth →
        engineEnabled s = false ∧ engineEnabled t = true)

/-- R176 and R184: FAIL, whatever snk_ready is, raises WRITE_FAILURE; the rejected frame is not logged and not counted, and
it and every frame behind it and CmdFifo are discarded. -/
def Obligations.RejectedFrame : Prop :=
  ∀ (s : State) (ready : Bool), s.engine ≠ .off → s.outFifo ≠ [] →
    ∃ t, step (s.scheduled (.sink (.transfer ready true))) = .next t ∧
      t = { s with
        code := .writeFailure
        ecmd := 0#32
        irqErr := true
        cmdFifo := []
        outFifo := []
        remain := 0#28
        dreq := false
        engine := .off
        runEnd := t.runEnd }

/-- A stall changes nothing, and no frame is transferred while STATE = OFF or OutFifo is empty (R172, R175, R178). -/
def Obligations.StallChangesNothing : Prop :=
  ∀ (s : State) (ready fail : Bool),
    (ready = false ∧ fail = false) ∨ s.engine = .off ∨ s.outFifo = [] →
    step (s.scheduled (.sink (.transfer ready fail))) = .next s

/-- The frame of a sample is its two's-complement pattern, its bytes on the wire are the low byte, then the high byte, and the
byte stream of a list of frames is the concatenation of their bytes, in order (R14, R64, R171, R177). -/
def Obligations.FrameBytesLowFirst : Prop :=
  (∀ v : Int, -32768 ≤ v → v ≤ 32767 → (toU16 v).toInt = v ∧ ((toU16 v).toNat : Int) = v % 65536) ∧
  (∀ f : Sample, ∃ b0 b1 : Byte, frameBytes f = [b0, b1] ∧ b0.toNat = f.toNat % 256 ∧ b1.toNat = f.toNat / 256) ∧
  (∀ f : Sample, streamBytes [f] = frameBytes f) ∧
  (∀ l m : List Sample, streamBytes l = l.flatMap frameBytes ∧ streamBytes (l ++ m) = streamBytes l ++ streamBytes m ∧
    (streamBytes l).length = 2 * l.length)

/-- R63: byte lane k of a register access carries register bits 8k+7:8k, so that the four lanes of a word carry the word. -/
def Obligations.BusLanesLittleEndian : Prop :=
  ∀ v : Word,
    (∀ k i : Nat, k < 4 → i < 8 → (laneOf v k).getLsbD i = v.getLsbD (8 * k + i)) ∧
    wordOfLanes { b0 := some (laneOf v 0), b1 := some (laneOf v 1), b2 := some (laneOf v 2), b3 := some (laneOf v 3) } =
      some v

/-- Several events of one clock have the effect of performing them one by one, in the order reset, host access,
sink, engine; so a flag set in the same clock as a write that clears it ends set
(R203). (An SRST and another host access do not meet in one clock, the bus carrying one access at a time, R70.) -/
def Obligations.ClockPerformsEventsInOrder : Prop :=
  (∀ (s : State) (e : ClockEvents),
    let moves : List Move :=
      (if e.reset then [.reset] else []) ++ (if e.host then [.host e.avail] else []) ++
        (match e.sink with | none => [] | some m => [.sink m]) ++ (if e.engine then [.engine] else [])
    step (s.scheduled (.clock e)) =
      Host.Core.run Sys2Proof.core moves.length { s with schedule := moves ++ s.schedule }) ∧
  (∀ (s : State) (v : Word) (avail ready engine : Bool), s.engine ≠ .off → s.outFifo ≠ [] →
    ∃ t, step ((s.hostNext (mmioWrite s.cfg 0x14 v)).scheduled
        (.clock { reset := false, host := true, avail := avail, sink := some (.transfer ready true), engine := engine })) =
      .next t ∧ t.irqErr = true ∧ t.code = .writeFailure) ∧
  (∀ (s : State) (v : Word) (avail engine : Bool), s.engine = .drain → s.dreq = true →
    ∃ t, step ((s.hostNext (mmioWrite s.cfg 0x14 v)).scheduled
        (.clock { reset := false, host := true, avail := avail, sink := some .drainAck, engine := engine })) =
      .next t ∧ t.irqDone = true)

/-- The machine stops with the fault `stuck` exactly where a run is in progress, nothing is scheduled and no agent has an
enabled step (R245), and with no other fault. The engine's and the host's conditions are those of the rules (R119, R120,
R140, R143, R152); the Sink's are those of R144 and R172 and, beside them, `sinkStalled = false`, which is the model's choice
(notes/assumptions/13.md): a Sink that stalls for ever has no step although a frame is offered or an acknowledgement awaited
(R243). In a state that meets the invariant, with a Sink that does not stall for ever, the stuck state is READY with both
FIFOs empty and no host step to come. (That a Sink which does not stall accepts every frame is notes/assumptions/3.md.) -/
def Obligations.StuckExactlyWhenNoAgentCanMove : Prop :=
  (∀ (s : State) (r : Fault), step s = .fault r ↔ s.schedule = [] ∧ s.engine ≠ .off ∧ s.noMove) ∧
  (∀ (s : State) (r : Fault), s.Inv → s.sinkStalled = false →
    (step s = .fault r ↔
      s.schedule = [] ∧ s.engine = .ready ∧ s.cmdFifo = [] ∧ s.outFifo = [] ∧ s.hostQueue = []))

/-- A Sink that stalls for ever leaves the run unfinished (R243): with nothing scheduled and the Sink stalled, no step takes
a frame, sets DONE or lets the Sink move again; a sample held on a full OutFifo, and a drain that waits for a frame or for
its acknowledgement, are stuck, with no host step left as well as behind a held write to CMD; and an abort ends the run. The fields
`sinkStalled` and `runEnd` are the model's own (notes/assumptions/13.md, notes/assumptions/22.md). -/
def Obligations.StalledSinkLeavesRunUnfinished : Prop :=
  ∀ s : State, s.Inv → s.schedule = [] → s.sinkStalled = true →
    (∀ t : State, step s = .next t →
      t.sinkLog = s.sinkLog ∧ (t.irqDone = true → s.irqDone = true) ∧ (t.runEnd = .done → s.runEnd = .done) ∧
        t.schedule = [] ∧ t.sinkStalled = true) ∧
    (((s.engine = .tone ∨ s.engine = .sil) ∧ s.outFifo.length = s.cfg.outDepth) ∨
        (s.engine = .drain ∧ (s.outFifo ≠ [] ∨ s.dreq = true)) →
      (s.hostQueue = [] → step s = .fault .stuck) ∧
      (∀ w : Word, s.cmdFifo.length = s.cfg.cmdDepth → step (s.hostNext (mmioWrite s.cfg 0x24 w)) = .fault .stuck) ∧
      (∀ v : Word, v.getLsbD 1 = false → v.getLsbD 0 = false →
        ∃ t, step (s.hostNext (mmioWrite s.cfg 0x0C v)) = .next t ∧ t.engine = .off ∧ t.runEnd = .aborted))

/-- A step is refused only for a second host or for half a frame, which the spec refuses (R185, R209), and so never for a
command. -/
def Obligations.RefusalsOnlyWhereTheSpecRefuses : Prop :=
  ∀ (s : State) (r : Refusal), step s = .refused r →
    ∃ (m : Move) (rest : List Move), s.schedule = m :: rest ∧
      ((r = .secondHost ∧ ∃ op, m = .otherHost op) ∨
        (r = .halfFrame ∧ (m = .sink .halfFrame ∨ ∃ e : ClockEvents, m = .clock e ∧ e.sink = some .halfFrame)))

/-- A run ends only by a DRAIN completion (ended DONE), by a fatal error of the engine or of the sink (ended ERROR, with CODE
and ERRCMD), by an abort (ended ABORTED, with no flag set), or by an SRST or a reset (ended RESET): R245, R182 (b). That the
end is recorded in `runEnd` is the model's choice (notes/assumptions/22.md). -/
def Obligations.RunEndsOnlyInFourWays : Prop :=
  ∀ (s t : State) (m : Move), s.Inv → m.single = true → s.engine ≠ .off →
    step (s.scheduled m) = .next t → t.engine = .off →
    (m = .sink .drainAck ∧ s.engine = .drain ∧ s.dreq = true ∧ t.runEnd = .done ∧ t.irqDone = true ∧ t.code = .none) ∨
    (m = .engine ∧ s.engine = .ready ∧ ∃ w rest, s.cmdFifo = w :: rest ∧ illegalWord w = true ∧
      t.runEnd = .error .illegalCommand w ∧ t.code = .illegalCommand ∧ t.ecmd = w ∧ t.irqErr = true ∧
      t.irqDone = s.irqDone) ∨
    (∃ ready, m = .sink (.transfer ready true) ∧ s.outFifo ≠ [] ∧
      t.runEnd = .error .writeFailure 0#32 ∧ t.code = .writeFailure ∧ t.ecmd = 0#32 ∧ t.irqErr = true ∧
      t.irqDone = s.irqDone) ∨
    (∃ avail v, m = .host avail ∧ s.hostWrites 0x0C v ∧ v.getLsbD 1 = false ∧ v.getLsbD 0 = false ∧
      t.runEnd = .aborted ∧ t.irqDone = s.irqDone ∧ t.irqErr = s.irqErr ∧ t.code = .none ∧
      t.cmdFifo = [] ∧ t.outFifo = [] ∧ t.sinkLog = s.sinkLog) ∨
    ((m = .reset ∨ ∃ avail v, m = .host avail ∧ s.hostWrites 0x0C v ∧ v.getLsbD 1 = true) ∧
      t.runEnd = .reset ∧ t.irqDone = false ∧ t.irqErr = false ∧ t.code = .none ∧
      t.cmdFifo = [] ∧ t.outFifo = [] ∧ t.sinkLog = s.sinkLog)

/-- Frames reach the sink in generation order, each once: a step hands the sink a prefix of OutFifo in order, and keeps the
rest in order in front of what it generates, or discards it all; one agent's step discards frames only by ending the run
(R72, R174). -/
def Obligations.FramesStayInOrder : Prop :=
  (∀ s t : State, step s = .next t →
    ∃ taken rest, s.outFifo = taken ++ rest ∧ t.sinkLog = s.sinkLog ++ taken ∧
      (t.outFifo = [] ∨ ∃ new, t.outFifo = rest ++ new)) ∧
  (∀ (s t : State) (m : Move), m.single = true → step (s.scheduled m) = .next t → t.engine ≠ .off →
    ∃ taken rest new, s.outFifo = taken ++ rest ∧ t.sinkLog = s.sinkLog ++ taken ∧ t.outFifo = rest ++ new)

/-- SAMPLES counts the frames SinkLog gains, mod 2^32, and is set to 0 only by reset, by an SRST and by an enable that starts
a run (R37). -/
def Obligations.SamplesCountAcceptedFrames : Prop :=
  ∀ (s t : State) (m : Move), m.single = true → step (s.scheduled m) = .next t →
    t.samples = s.samples + BitVec.ofNat 32 (t.sinkLog.length - s.sinkLog.length) ∨
    (t.samples = 0#32 ∧ t.sinkLog = s.sinkLog ∧
      (m = .reset ∨ ∃ avail v, m = .host avail ∧ s.hostWrites 0x0C v ∧
        (v.getLsbD 1 = true ∨ (v.getLsbD 0 = true ∧ s.engine = .off ∧ t.engine = .ready))))

/-- FREQ is written only by SETF, by SRST and by reset (R36). -/
def Obligations.FreqChangesOnlyBySetf : Prop :=
  ∀ (s t : State) (m : Move), m.single = true → step (s.scheduled m) = .next t → t.freq ≠ s.freq →
    (m = .engine ∧ s.engine = .ready ∧
      ∃ w rest f, s.cmdFifo = w :: rest ∧ decode w = .legal (.setf f) ∧ t.freq.toNat = f) ∨
    (t.freq = 0#28 ∧ t.engine = .off ∧
      (m = .reset ∨ ∃ avail v, m = .host avail ∧ s.hostWrites 0x0C v ∧ v.getLsbD 1 = true))

/-- Commands execute in push order: only the engine takes a word, from the head; only a host write to CMD adds one, at the
tail; all others stay in order, or all are discarded, with STATE = OFF, by a reset, a fatal error or a CTRL write (an abort,
an SRST, a failed enable), and not by a DRAIN completion (R42, R71, R76, R144). -/
def Obligations.CommandsStayInOrder : Prop :=
  ∀ (s t : State) (m : Move), m.single = true → step (s.scheduled m) = .next t →
    t.cmdFifo = s.cmdFifo ∨
    (m = .engine ∧ s.engine = .ready ∧ ∃ w, s.cmdFifo = w :: t.cmdFifo) ∨
    (∃ avail w, m = .host avail ∧ s.hostWrites 0x24 w ∧ t.cmdFifo = s.cmdFifo ++ [w]) ∨
    (t.cmdFifo = [] ∧ t.engine = .off ∧
      (m = .reset ∨ (m = .engine ∧ t.code = .illegalCommand) ∨ (∃ ready, m = .sink (.transfer ready true)) ∨
        ∃ avail v, m = .host avail ∧ s.hostWrites 0x0C v))

/-- The invariants the spec derives (spec/10_state.md R47), with the ranges of the parameters (R5 to R9) and the FIFO
bounds (R42, R43), hold after every step from every state that meets them. The clauses `running` and `lastError` are about
the model's own record of a run's end, and that a failed enable is recorded as a run that ended is its choice
(R182, R245; notes/assumptions/22.md). -/
def Obligations.StepKeepsInvariant : Prop :=
  ∀ s t : State, s.Inv → step s = .next t → t.Inv

/-- The same invariants hold after reset (R47, R48; of the record of a run's end, notes/assumptions/22.md). -/
def Obligations.ResetMeetsInvariant : Prop :=
  State.reset.Inv

/-- The build's parameters never change: R is "fixed when the block is built" (R5), and so are the depths and the base. -/
def Obligations.ParametersNeverChange : Prop :=
  ∀ s t : State, step s = .next t → t.cfg = s.cfg

/-- SEND expands to k preamble repetitions, one tone and pause per bit, and DRAIN, each one write to CMD (R99). -/
def Obligations.SendExpandsToThePlan : Prop :=
  ∀ (cfg : Config) (nt np k n0 n1 : Nat) (bits : List Bool),
    (AsmLine.send nt np k n0 n1 bits).expand cfg =
      ((List.replicate k [Instr.tone nt, Instr.sil np]).flatten ++
        bits.flatMap (fun b => [Instr.tone (if b then n1 else n0), Instr.sil np]) ++ [Instr.drain]).map
        (fun i => mmioWrite cfg 0x24 (encode i)) ∧
    ((AsmLine.send nt np k n0 n1 bits).expand cfg).length = 2 * k + 2 * bits.length + 1
end

