-- ==== Sys2Proof/Laws/Decode.lean ====
section
/-! SUPPORT. Small laws of the decoder and the encoder: each field and each clause once. -/

namespace Sys2Proof

theorem argField_toNat (w : Word) : (argField w).toNat = w.toNat % 2 ^ 28 := by
  simp [argField]

theorem argField_lt (w : Word) : (argField w).toNat < operandBound := (argField w).isLt

theorem opField_toNat (w : Word) : (opField w).toNat = w.toNat / 2 ^ 28 := by
  have h := w.isLt
  simp only [opField, BitVec.extractLsb'_toNat, Nat.shiftRight_eq_div_pow]
  omega

/-- The decoder's clause for each opcode. -/
theorem decode_of_op_one {w : Word} (h : opField w = 1#4) : decode w = .legal (.setf (argField w).toNat) := by
  simp [decode, h]

theorem decode_of_op_two {w : Word} (h : opField w = 2#4) : decode w = .legal (.tone (argField w).toNat) := by
  simp [decode, h]

theorem decode_of_op_three {w : Word} (h : opField w = 3#4) : decode w = .legal (.sil (argField w).toNat) := by
  simp [decode, h]

theorem decode_of_op_four {w : Word} (h : opField w = 4#4) (ha : argField w = 0#28) : decode w = .legal .drain := by
  simp [decode, h, ha]

/-- What a legal word is, said once: its opcode, and its operand. -/
theorem decode_legal_cases {w : Word} {i : Instr} (h : decode w = .legal i) :
    (opField w = 1#4 ∧ i = .setf (argField w).toNat) ∨ (opField w = 2#4 ∧ i = .tone (argField w).toNat) ∨
      (opField w = 3#4 ∧ i = .sil (argField w).toNat) ∨ (opField w = 4#4 ∧ argField w = 0#28 ∧ i = .drain) := by
  simp only [decode] at h
  split at h
  · exact .inl ⟨‹_›, by simpa using h.symm⟩
  split at h
  · exact .inr (.inl ⟨‹_›, by simpa using h.symm⟩)
  split at h
  · exact .inr (.inr (.inl ⟨‹_›, by simpa using h.symm⟩))
  split at h
  · split at h
    · exact .inr (.inr (.inr ⟨‹_›, by simpa [← BitVec.toNat_inj] using ‹_›, by simpa using h.symm⟩))
    · cases h
  · split at h <;> cases h

/-- The decoder never reads an operand out of range. -/
theorem decode_legal_wellFormed {w : Word} {i : Instr} (h : decode w = .legal i) : i.wellFormed = true := by
  obtain ⟨-, rfl⟩ | ⟨-, rfl⟩ | ⟨-, rfl⟩ | ⟨-, -, rfl⟩ := decode_legal_cases h <;>
    simp [Instr.wellFormed, argField_lt]

theorem illegalWord_iff {w : Word} : illegalWord w = true ↔ ∃ why, decode w = .illegal why := by
  unfold illegalWord
  cases decode w <;> simp

/-- A word of an operand and an opcode above it, as a number. -/
theorem or_operand_toNat {b : Nat} (hb : b < 8) {n : Nat} (h : n < operandBound) :
    (BitVec.ofNat 32 (b * 2 ^ 28) ||| BitVec.ofNat 32 n).toNat = b * 2 ^ 28 + n := by
  have hn : n < 2 ^ 28 := h
  rw [BitVec.toNat_or, BitVec.toNat_ofNat, BitVec.toNat_ofNat, Nat.mod_eq_of_lt (by omega), Nat.mod_eq_of_lt (by omega),
    Nat.mul_comm b, Nat.two_pow_add_eq_or_of_lt hn]

theorem encode_setf_toNat {f : Nat} (h : f < operandBound) : (encode (.setf f)).toNat = 1 * 2 ^ 28 + f :=
  or_operand_toNat (b := 1) (by decide) h

theorem encode_tone_toNat {n : Nat} (h : n < operandBound) : (encode (.tone n)).toNat = 2 * 2 ^ 28 + n :=
  or_operand_toNat (b := 2) (by decide) h

theorem encode_sil_toNat {n : Nat} (h : n < operandBound) : (encode (.sil n)).toNat = 3 * 2 ^ 28 + n :=
  or_operand_toNat (b := 3) (by decide) h

theorem encode_drain_toNat : (encode .drain).toNat = 4 * 2 ^ 28 := rfl

end Sys2Proof
end

