-- ==== Sys2Proof/Laws/State.lean ====
section
/-! SUPPORT. One lemma per field per named update of the state, each true by rfl, so that no proof unfolds a record update. -/

namespace Sys2Proof.Machine

@[simp] theorem pushCmd_cfg (w : Word) (s : State) : (pushCmd w s).cfg = s.cfg := rfl
@[simp] theorem pushCmd_engine (w : Word) (s : State) : (pushCmd w s).engine = s.engine := rfl
@[simp] theorem pushCmd_dreq (w : Word) (s : State) : (pushCmd w s).dreq = s.dreq := rfl
@[simp] theorem pushCmd_freq (w : Word) (s : State) : (pushCmd w s).freq = s.freq := rfl
@[simp] theorem pushCmd_acc (w : Word) (s : State) : (pushCmd w s).acc = s.acc := rfl
@[simp] theorem pushCmd_remain (w : Word) (s : State) : (pushCmd w s).remain = s.remain := rfl
@[simp] theorem pushCmd_cmdFifo (w : Word) (s : State) : (pushCmd w s).cmdFifo = s.cmdFifo ++ [w] := rfl
@[simp] theorem pushCmd_outFifo (w : Word) (s : State) : (pushCmd w s).outFifo = s.outFifo := rfl
@[simp] theorem pushCmd_samples (w : Word) (s : State) : (pushCmd w s).samples = s.samples := rfl
@[simp] theorem pushCmd_segments (w : Word) (s : State) : (pushCmd w s).segments = s.segments := rfl
@[simp] theorem pushCmd_irqDone (w : Word) (s : State) : (pushCmd w s).irqDone = s.irqDone := rfl
@[simp] theorem pushCmd_irqErr (w : Word) (s : State) : (pushCmd w s).irqErr = s.irqErr := rfl
@[simp] theorem pushCmd_doneEn (w : Word) (s : State) : (pushCmd w s).doneEn = s.doneEn := rfl
@[simp] theorem pushCmd_errEn (w : Word) (s : State) : (pushCmd w s).errEn = s.errEn := rfl
@[simp] theorem pushCmd_code (w : Word) (s : State) : (pushCmd w s).code = s.code := rfl
@[simp] theorem pushCmd_ecmd (w : Word) (s : State) : (pushCmd w s).ecmd = s.ecmd := rfl
@[simp] theorem pushCmd_sinkLog (w : Word) (s : State) : (pushCmd w s).sinkLog = s.sinkLog := rfl
@[simp] theorem pushCmd_runEnd (w : Word) (s : State) : (pushCmd w s).runEnd = s.runEnd := rfl
@[simp] theorem pushCmd_hostQueue (w : Word) (s : State) : (pushCmd w s).hostQueue = s.hostQueue := rfl
@[simp] theorem pushCmd_busLog (w : Word) (s : State) : (pushCmd w s).busLog = s.busLog := rfl
@[simp] theorem pushCmd_schedule (w : Word) (s : State) : (pushCmd w s).schedule = s.schedule := rfl
@[simp] theorem pushCmd_sinkStalled (w : Word) (s : State) : (pushCmd w s).sinkStalled = s.sinkStalled := rfl

@[simp] theorem pushSample_cfg (v : Sample) (s : State) : (pushSample v s).cfg = s.cfg := rfl
@[simp] theorem pushSample_engine (v : Sample) (s : State) : (pushSample v s).engine = s.engine := rfl
@[simp] theorem pushSample_dreq (v : Sample) (s : State) : (pushSample v s).dreq = s.dreq := rfl
@[simp] theorem pushSample_freq (v : Sample) (s : State) : (pushSample v s).freq = s.freq := rfl
@[simp] theorem pushSample_acc (v : Sample) (s : State) : (pushSample v s).acc = s.acc := rfl
@[simp] theorem pushSample_remain (v : Sample) (s : State) : (pushSample v s).remain = s.remain := rfl
@[simp] theorem pushSample_cmdFifo (v : Sample) (s : State) : (pushSample v s).cmdFifo = s.cmdFifo := rfl
@[simp] theorem pushSample_outFifo (v : Sample) (s : State) : (pushSample v s).outFifo = s.outFifo ++ [v] := rfl
@[simp] theorem pushSample_samples (v : Sample) (s : State) : (pushSample v s).samples = s.samples := rfl
@[simp] theorem pushSample_segments (v : Sample) (s : State) : (pushSample v s).segments = s.segments := rfl
@[simp] theorem pushSample_irqDone (v : Sample) (s : State) : (pushSample v s).irqDone = s.irqDone := rfl
@[simp] theorem pushSample_irqErr (v : Sample) (s : State) : (pushSample v s).irqErr = s.irqErr := rfl
@[simp] theorem pushSample_doneEn (v : Sample) (s : State) : (pushSample v s).doneEn = s.doneEn := rfl
@[simp] theorem pushSample_errEn (v : Sample) (s : State) : (pushSample v s).errEn = s.errEn := rfl
@[simp] theorem pushSample_code (v : Sample) (s : State) : (pushSample v s).code = s.code := rfl
@[simp] theorem pushSample_ecmd (v : Sample) (s : State) : (pushSample v s).ecmd = s.ecmd := rfl
@[simp] theorem pushSample_sinkLog (v : Sample) (s : State) : (pushSample v s).sinkLog = s.sinkLog := rfl
@[simp] theorem pushSample_runEnd (v : Sample) (s : State) : (pushSample v s).runEnd = s.runEnd := rfl
@[simp] theorem pushSample_hostQueue (v : Sample) (s : State) : (pushSample v s).hostQueue = s.hostQueue := rfl
@[simp] theorem pushSample_busLog (v : Sample) (s : State) : (pushSample v s).busLog = s.busLog := rfl
@[simp] theorem pushSample_schedule (v : Sample) (s : State) : (pushSample v s).schedule = s.schedule := rfl
@[simp] theorem pushSample_sinkStalled (v : Sample) (s : State) : (pushSample v s).sinkStalled = s.sinkStalled := rfl

@[simp] theorem advancePhase_cfg (s : State) : (advancePhase s).cfg = s.cfg := rfl
@[simp] theorem advancePhase_engine (s : State) : (advancePhase s).engine = s.engine := rfl
@[simp] theorem advancePhase_dreq (s : State) : (advancePhase s).dreq = s.dreq := rfl
@[simp] theorem advancePhase_freq (s : State) : (advancePhase s).freq = s.freq := rfl
@[simp] theorem advancePhase_acc (s : State) : (advancePhase s).acc = BitVec.ofNat 24 ((s.acc.toNat + s.freq.toNat) % s.cfg.rate) := rfl
@[simp] theorem advancePhase_remain (s : State) : (advancePhase s).remain = s.remain := rfl
@[simp] theorem advancePhase_cmdFifo (s : State) : (advancePhase s).cmdFifo = s.cmdFifo := rfl
@[simp] theorem advancePhase_outFifo (s : State) : (advancePhase s).outFifo = s.outFifo := rfl
@[simp] theorem advancePhase_samples (s : State) : (advancePhase s).samples = s.samples := rfl
@[simp] theorem advancePhase_segments (s : State) : (advancePhase s).segments = s.segments := rfl
@[simp] theorem advancePhase_irqDone (s : State) : (advancePhase s).irqDone = s.irqDone := rfl
@[simp] theorem advancePhase_irqErr (s : State) : (advancePhase s).irqErr = s.irqErr := rfl
@[simp] theorem advancePhase_doneEn (s : State) : (advancePhase s).doneEn = s.doneEn := rfl
@[simp] theorem advancePhase_errEn (s : State) : (advancePhase s).errEn = s.errEn := rfl
@[simp] theorem advancePhase_code (s : State) : (advancePhase s).code = s.code := rfl
@[simp] theorem advancePhase_ecmd (s : State) : (advancePhase s).ecmd = s.ecmd := rfl
@[simp] theorem advancePhase_sinkLog (s : State) : (advancePhase s).sinkLog = s.sinkLog := rfl
@[simp] theorem advancePhase_runEnd (s : State) : (advancePhase s).runEnd = s.runEnd := rfl
@[simp] theorem advancePhase_hostQueue (s : State) : (advancePhase s).hostQueue = s.hostQueue := rfl
@[simp] theorem advancePhase_busLog (s : State) : (advancePhase s).busLog = s.busLog := rfl
@[simp] theorem advancePhase_schedule (s : State) : (advancePhase s).schedule = s.schedule := rfl
@[simp] theorem advancePhase_sinkStalled (s : State) : (advancePhase s).sinkStalled = s.sinkStalled := rfl

@[simp] theorem completeSegment_cfg (s : State) : (completeSegment s).cfg = s.cfg := rfl
@[simp] theorem completeSegment_engine (s : State) : (completeSegment s).engine = .ready := rfl
@[simp] theorem completeSegment_dreq (s : State) : (completeSegment s).dreq = s.dreq := rfl
@[simp] theorem completeSegment_freq (s : State) : (completeSegment s).freq = s.freq := rfl
@[simp] theorem completeSegment_acc (s : State) : (completeSegment s).acc = s.acc := rfl
@[simp] theorem completeSegment_remain (s : State) : (completeSegment s).remain = s.remain := rfl
@[simp] theorem completeSegment_cmdFifo (s : State) : (completeSegment s).cmdFifo = s.cmdFifo := rfl
@[simp] theorem completeSegment_outFifo (s : State) : (completeSegment s).outFifo = s.outFifo := rfl
@[simp] theorem completeSegment_samples (s : State) : (completeSegment s).samples = s.samples := rfl
@[simp] theorem completeSegment_segments (s : State) : (completeSegment s).segments = s.segments + 1#32 := rfl
@[simp] theorem completeSegment_irqDone (s : State) : (completeSegment s).irqDone = s.irqDone := rfl
@[simp] theorem completeSegment_irqErr (s : State) : (completeSegment s).irqErr = s.irqErr := rfl
@[simp] theorem completeSegment_doneEn (s : State) : (completeSegment s).doneEn = s.doneEn := rfl
@[simp] theorem completeSegment_errEn (s : State) : (completeSegment s).errEn = s.errEn := rfl
@[simp] theorem completeSegment_code (s : State) : (completeSegment s).code = s.code := rfl
@[simp] theorem completeSegment_ecmd (s : State) : (completeSegment s).ecmd = s.ecmd := rfl
@[simp] theorem completeSegment_sinkLog (s : State) : (completeSegment s).sinkLog = s.sinkLog := rfl
@[simp] theorem completeSegment_runEnd (s : State) : (completeSegment s).runEnd = s.runEnd := rfl
@[simp] theorem completeSegment_hostQueue (s : State) : (completeSegment s).hostQueue = s.hostQueue := rfl
@[simp] theorem completeSegment_busLog (s : State) : (completeSegment s).busLog = s.busLog := rfl
@[simp] theorem completeSegment_schedule (s : State) : (completeSegment s).schedule = s.schedule := rfl
@[simp] theorem completeSegment_sinkStalled (s : State) : (completeSegment s).sinkStalled = s.sinkStalled := rfl

@[simp] theorem closeRun_cfg (how : RunEnd) (s : State) : (closeRun how s).cfg = s.cfg := rfl
@[simp] theorem closeRun_engine (how : RunEnd) (s : State) : (closeRun how s).engine = .off := rfl
@[simp] theorem closeRun_dreq (how : RunEnd) (s : State) : (closeRun how s).dreq = false := rfl
@[simp] theorem closeRun_freq (how : RunEnd) (s : State) : (closeRun how s).freq = s.freq := rfl
@[simp] theorem closeRun_acc (how : RunEnd) (s : State) : (closeRun how s).acc = s.acc := rfl
@[simp] theorem closeRun_remain (how : RunEnd) (s : State) : (closeRun how s).remain = 0#28 := rfl
@[simp] theorem closeRun_cmdFifo (how : RunEnd) (s : State) : (closeRun how s).cmdFifo = s.cmdFifo := rfl
@[simp] theorem closeRun_outFifo (how : RunEnd) (s : State) : (closeRun how s).outFifo = [] := rfl
@[simp] theorem closeRun_samples (how : RunEnd) (s : State) : (closeRun how s).samples = s.samples := rfl
@[simp] theorem closeRun_segments (how : RunEnd) (s : State) : (closeRun how s).segments = s.segments := rfl
@[simp] theorem closeRun_irqDone (how : RunEnd) (s : State) : (closeRun how s).irqDone = s.irqDone := rfl
@[simp] theorem closeRun_irqErr (how : RunEnd) (s : State) : (closeRun how s).irqErr = s.irqErr := rfl
@[simp] theorem closeRun_doneEn (how : RunEnd) (s : State) : (closeRun how s).doneEn = s.doneEn := rfl
@[simp] theorem closeRun_errEn (how : RunEnd) (s : State) : (closeRun how s).errEn = s.errEn := rfl
@[simp] theorem closeRun_code (how : RunEnd) (s : State) : (closeRun how s).code = s.code := rfl
@[simp] theorem closeRun_ecmd (how : RunEnd) (s : State) : (closeRun how s).ecmd = s.ecmd := rfl
@[simp] theorem closeRun_sinkLog (how : RunEnd) (s : State) : (closeRun how s).sinkLog = s.sinkLog := rfl
@[simp] theorem closeRun_runEnd (how : RunEnd) (s : State) : (closeRun how s).runEnd = how := rfl
@[simp] theorem closeRun_hostQueue (how : RunEnd) (s : State) : (closeRun how s).hostQueue = s.hostQueue := rfl
@[simp] theorem closeRun_busLog (how : RunEnd) (s : State) : (closeRun how s).busLog = s.busLog := rfl
@[simp] theorem closeRun_schedule (how : RunEnd) (s : State) : (closeRun how s).schedule = s.schedule := rfl
@[simp] theorem closeRun_sinkStalled (how : RunEnd) (s : State) : (closeRun how s).sinkStalled = s.sinkStalled := rfl

@[simp] theorem fatal_cfg (c : ErrorCode) (w : Word) (s : State) : (fatal c w s).cfg = s.cfg := rfl
@[simp] theorem fatal_engine (c : ErrorCode) (w : Word) (s : State) : (fatal c w s).engine = .off := rfl
@[simp] theorem fatal_dreq (c : ErrorCode) (w : Word) (s : State) : (fatal c w s).dreq = false := rfl
@[simp] theorem fatal_freq (c : ErrorCode) (w : Word) (s : State) : (fatal c w s).freq = s.freq := rfl
@[simp] theorem fatal_acc (c : ErrorCode) (w : Word) (s : State) : (fatal c w s).acc = s.acc := rfl
@[simp] theorem fatal_remain (c : ErrorCode) (w : Word) (s : State) : (fatal c w s).remain = 0#28 := rfl
@[simp] theorem fatal_cmdFifo (c : ErrorCode) (w : Word) (s : State) : (fatal c w s).cmdFifo = [] := rfl
@[simp] theorem fatal_outFifo (c : ErrorCode) (w : Word) (s : State) : (fatal c w s).outFifo = [] := rfl
@[simp] theorem fatal_samples (c : ErrorCode) (w : Word) (s : State) : (fatal c w s).samples = s.samples := rfl
@[simp] theorem fatal_segments (c : ErrorCode) (w : Word) (s : State) : (fatal c w s).segments = s.segments := rfl
@[simp] theorem fatal_irqDone (c : ErrorCode) (w : Word) (s : State) : (fatal c w s).irqDone = s.irqDone := rfl
@[simp] theorem fatal_irqErr (c : ErrorCode) (w : Word) (s : State) : (fatal c w s).irqErr = true := rfl
@[simp] theorem fatal_doneEn (c : ErrorCode) (w : Word) (s : State) : (fatal c w s).doneEn = s.doneEn := rfl
@[simp] theorem fatal_errEn (c : ErrorCode) (w : Word) (s : State) : (fatal c w s).errEn = s.errEn := rfl
@[simp] theorem fatal_code (c : ErrorCode) (w : Word) (s : State) : (fatal c w s).code = c := rfl
@[simp] theorem fatal_ecmd (c : ErrorCode) (w : Word) (s : State) : (fatal c w s).ecmd = w := rfl
@[simp] theorem fatal_sinkLog (c : ErrorCode) (w : Word) (s : State) : (fatal c w s).sinkLog = s.sinkLog := rfl
@[simp] theorem fatal_runEnd (c : ErrorCode) (w : Word) (s : State) : (fatal c w s).runEnd = .error c w := rfl
@[simp] theorem fatal_hostQueue (c : ErrorCode) (w : Word) (s : State) : (fatal c w s).hostQueue = s.hostQueue := rfl
@[simp] theorem fatal_busLog (c : ErrorCode) (w : Word) (s : State) : (fatal c w s).busLog = s.busLog := rfl
@[simp] theorem fatal_schedule (c : ErrorCode) (w : Word) (s : State) : (fatal c w s).schedule = s.schedule := rfl
@[simp] theorem fatal_sinkStalled (c : ErrorCode) (w : Word) (s : State) : (fatal c w s).sinkStalled = s.sinkStalled := rfl

@[simp] theorem clearError_cfg (s : State) : (clearError s).cfg = s.cfg := rfl
@[simp] theorem clearError_engine (s : State) : (clearError s).engine = s.engine := rfl
@[simp] theorem clearError_dreq (s : State) : (clearError s).dreq = s.dreq := rfl
@[simp] theorem clearError_freq (s : State) : (clearError s).freq = s.freq := rfl
@[simp] theorem clearError_acc (s : State) : (clearError s).acc = s.acc := rfl
@[simp] theorem clearError_remain (s : State) : (clearError s).remain = s.remain := rfl
@[simp] theorem clearError_cmdFifo (s : State) : (clearError s).cmdFifo = s.cmdFifo := rfl
@[simp] theorem clearError_outFifo (s : State) : (clearError s).outFifo = s.outFifo := rfl
@[simp] theorem clearError_samples (s : State) : (clearError s).samples = s.samples := rfl
@[simp] theorem clearError_segments (s : State) : (clearError s).segments = s.segments := rfl
@[simp] theorem clearError_irqDone (s : State) : (clearError s).irqDone = s.irqDone := rfl
@[simp] theorem clearError_irqErr (s : State) : (clearError s).irqErr = false := rfl
@[simp] theorem clearError_doneEn (s : State) : (clearError s).doneEn = s.doneEn := rfl
@[simp] theorem clearError_errEn (s : State) : (clearError s).errEn = s.errEn := rfl
@[simp] theorem clearError_code (s : State) : (clearError s).code = .none := rfl
@[simp] theorem clearError_ecmd (s : State) : (clearError s).ecmd = 0#32 := rfl
@[simp] theorem clearError_sinkLog (s : State) : (clearError s).sinkLog = s.sinkLog := rfl
@[simp] theorem clearError_runEnd (s : State) : (clearError s).runEnd = s.runEnd := rfl
@[simp] theorem clearError_hostQueue (s : State) : (clearError s).hostQueue = s.hostQueue := rfl
@[simp] theorem clearError_busLog (s : State) : (clearError s).busLog = s.busLog := rfl
@[simp] theorem clearError_schedule (s : State) : (clearError s).schedule = s.schedule := rfl
@[simp] theorem clearError_sinkStalled (s : State) : (clearError s).sinkStalled = s.sinkStalled := rfl

@[simp] theorem clearDone_cfg (s : State) : (clearDone s).cfg = s.cfg := rfl
@[simp] theorem clearDone_engine (s : State) : (clearDone s).engine = s.engine := rfl
@[simp] theorem clearDone_dreq (s : State) : (clearDone s).dreq = s.dreq := rfl
@[simp] theorem clearDone_freq (s : State) : (clearDone s).freq = s.freq := rfl
@[simp] theorem clearDone_acc (s : State) : (clearDone s).acc = s.acc := rfl
@[simp] theorem clearDone_remain (s : State) : (clearDone s).remain = s.remain := rfl
@[simp] theorem clearDone_cmdFifo (s : State) : (clearDone s).cmdFifo = s.cmdFifo := rfl
@[simp] theorem clearDone_outFifo (s : State) : (clearDone s).outFifo = s.outFifo := rfl
@[simp] theorem clearDone_samples (s : State) : (clearDone s).samples = s.samples := rfl
@[simp] theorem clearDone_segments (s : State) : (clearDone s).segments = s.segments := rfl
@[simp] theorem clearDone_irqDone (s : State) : (clearDone s).irqDone = false := rfl
@[simp] theorem clearDone_irqErr (s : State) : (clearDone s).irqErr = s.irqErr := rfl
@[simp] theorem clearDone_doneEn (s : State) : (clearDone s).doneEn = s.doneEn := rfl
@[simp] theorem clearDone_errEn (s : State) : (clearDone s).errEn = s.errEn := rfl
@[simp] theorem clearDone_code (s : State) : (clearDone s).code = s.code := rfl
@[simp] theorem clearDone_ecmd (s : State) : (clearDone s).ecmd = s.ecmd := rfl
@[simp] theorem clearDone_sinkLog (s : State) : (clearDone s).sinkLog = s.sinkLog := rfl
@[simp] theorem clearDone_runEnd (s : State) : (clearDone s).runEnd = s.runEnd := rfl
@[simp] theorem clearDone_hostQueue (s : State) : (clearDone s).hostQueue = s.hostQueue := rfl
@[simp] theorem clearDone_busLog (s : State) : (clearDone s).busLog = s.busLog := rfl
@[simp] theorem clearDone_schedule (s : State) : (clearDone s).schedule = s.schedule := rfl
@[simp] theorem clearDone_sinkStalled (s : State) : (clearDone s).sinkStalled = s.sinkStalled := rfl

@[simp] theorem startRun_cfg (s : State) : (startRun s).cfg = s.cfg := rfl
@[simp] theorem startRun_engine (s : State) : (startRun s).engine = .ready := rfl
@[simp] theorem startRun_dreq (s : State) : (startRun s).dreq = false := rfl
@[simp] theorem startRun_freq (s : State) : (startRun s).freq = s.freq := rfl
@[simp] theorem startRun_acc (s : State) : (startRun s).acc = s.acc := rfl
@[simp] theorem startRun_remain (s : State) : (startRun s).remain = s.remain := rfl
@[simp] theorem startRun_cmdFifo (s : State) : (startRun s).cmdFifo = s.cmdFifo := rfl
@[simp] theorem startRun_outFifo (s : State) : (startRun s).outFifo = s.outFifo := rfl
@[simp] theorem startRun_samples (s : State) : (startRun s).samples = 0#32 := rfl
@[simp] theorem startRun_segments (s : State) : (startRun s).segments = 0#32 := rfl
@[simp] theorem startRun_irqDone (s : State) : (startRun s).irqDone = s.irqDone := rfl
@[simp] theorem startRun_irqErr (s : State) : (startRun s).irqErr = s.irqErr := rfl
@[simp] theorem startRun_doneEn (s : State) : (startRun s).doneEn = s.doneEn := rfl
@[simp] theorem startRun_errEn (s : State) : (startRun s).errEn = s.errEn := rfl
@[simp] theorem startRun_code (s : State) : (startRun s).code = s.code := rfl
@[simp] theorem startRun_ecmd (s : State) : (startRun s).ecmd = s.ecmd := rfl
@[simp] theorem startRun_sinkLog (s : State) : (startRun s).sinkLog = s.sinkLog := rfl
@[simp] theorem startRun_runEnd (s : State) : (startRun s).runEnd = .notEnded := rfl
@[simp] theorem startRun_hostQueue (s : State) : (startRun s).hostQueue = s.hostQueue := rfl
@[simp] theorem startRun_busLog (s : State) : (startRun s).busLog = s.busLog := rfl
@[simp] theorem startRun_schedule (s : State) : (startRun s).schedule = s.schedule := rfl
@[simp] theorem startRun_sinkStalled (s : State) : (startRun s).sinkStalled = s.sinkStalled := rfl

@[simp] theorem resetBlock_cfg (s : State) : (resetBlock s).cfg = s.cfg := rfl
@[simp] theorem resetBlock_engine (s : State) : (resetBlock s).engine = .off := rfl
@[simp] theorem resetBlock_dreq (s : State) : (resetBlock s).dreq = false := rfl
@[simp] theorem resetBlock_freq (s : State) : (resetBlock s).freq = 0#28 := rfl
@[simp] theorem resetBlock_acc (s : State) : (resetBlock s).acc = 0#24 := rfl
@[simp] theorem resetBlock_remain (s : State) : (resetBlock s).remain = 0#28 := rfl
@[simp] theorem resetBlock_cmdFifo (s : State) : (resetBlock s).cmdFifo = [] := rfl
@[simp] theorem resetBlock_outFifo (s : State) : (resetBlock s).outFifo = [] := rfl
@[simp] theorem resetBlock_samples (s : State) : (resetBlock s).samples = 0#32 := rfl
@[simp] theorem resetBlock_segments (s : State) : (resetBlock s).segments = 0#32 := rfl
@[simp] theorem resetBlock_irqDone (s : State) : (resetBlock s).irqDone = false := rfl
@[simp] theorem resetBlock_irqErr (s : State) : (resetBlock s).irqErr = false := rfl
@[simp] theorem resetBlock_doneEn (s : State) : (resetBlock s).doneEn = false := rfl
@[simp] theorem resetBlock_errEn (s : State) : (resetBlock s).errEn = false := rfl
@[simp] theorem resetBlock_code (s : State) : (resetBlock s).code = .none := rfl
@[simp] theorem resetBlock_ecmd (s : State) : (resetBlock s).ecmd = 0#32 := rfl
@[simp] theorem resetBlock_sinkLog (s : State) : (resetBlock s).sinkLog = s.sinkLog := rfl
@[simp] theorem resetBlock_runEnd (s : State) : (resetBlock s).runEnd = if s.engine = .off then s.runEnd else .reset := rfl
@[simp] theorem resetBlock_hostQueue (s : State) : (resetBlock s).hostQueue = s.hostQueue := rfl
@[simp] theorem resetBlock_busLog (s : State) : (resetBlock s).busLog = s.busLog := rfl
@[simp] theorem resetBlock_schedule (s : State) : (resetBlock s).schedule = s.schedule := rfl
@[simp] theorem resetBlock_sinkStalled (s : State) : (resetBlock s).sinkStalled = s.sinkStalled := rfl

@[simp] theorem drainRequest_cfg (s : State) : (drainRequest s).cfg = s.cfg := rfl
@[simp] theorem drainRequest_engine (s : State) : (drainRequest s).engine = s.engine := rfl
@[simp] theorem drainRequest_dreq (s : State) : (drainRequest s).dreq = true := rfl
@[simp] theorem drainRequest_freq (s : State) : (drainRequest s).freq = s.freq := rfl
@[simp] theorem drainRequest_acc (s : State) : (drainRequest s).acc = s.acc := rfl
@[simp] theorem drainRequest_remain (s : State) : (drainRequest s).remain = s.remain := rfl
@[simp] theorem drainRequest_cmdFifo (s : State) : (drainRequest s).cmdFifo = s.cmdFifo := rfl
@[simp] theorem drainRequest_outFifo (s : State) : (drainRequest s).outFifo = s.outFifo := rfl
@[simp] theorem drainRequest_samples (s : State) : (drainRequest s).samples = s.samples := rfl
@[simp] theorem drainRequest_segments (s : State) : (drainRequest s).segments = s.segments := rfl
@[simp] theorem drainRequest_irqDone (s : State) : (drainRequest s).irqDone = s.irqDone := rfl
@[simp] theorem drainRequest_irqErr (s : State) : (drainRequest s).irqErr = s.irqErr := rfl
@[simp] theorem drainRequest_doneEn (s : State) : (drainRequest s).doneEn = s.doneEn := rfl
@[simp] theorem drainRequest_errEn (s : State) : (drainRequest s).errEn = s.errEn := rfl
@[simp] theorem drainRequest_code (s : State) : (drainRequest s).code = s.code := rfl
@[simp] theorem drainRequest_ecmd (s : State) : (drainRequest s).ecmd = s.ecmd := rfl
@[simp] theorem drainRequest_sinkLog (s : State) : (drainRequest s).sinkLog = s.sinkLog := rfl
@[simp] theorem drainRequest_runEnd (s : State) : (drainRequest s).runEnd = s.runEnd := rfl
@[simp] theorem drainRequest_hostQueue (s : State) : (drainRequest s).hostQueue = s.hostQueue := rfl
@[simp] theorem drainRequest_busLog (s : State) : (drainRequest s).busLog = s.busLog := rfl
@[simp] theorem drainRequest_schedule (s : State) : (drainRequest s).schedule = s.schedule := rfl
@[simp] theorem drainRequest_sinkStalled (s : State) : (drainRequest s).sinkStalled = s.sinkStalled := rfl

@[simp] theorem drainComplete_cfg (s : State) : (drainComplete s).cfg = s.cfg := rfl
@[simp] theorem drainComplete_engine (s : State) : (drainComplete s).engine = .off := rfl
@[simp] theorem drainComplete_dreq (s : State) : (drainComplete s).dreq = false := rfl
@[simp] theorem drainComplete_freq (s : State) : (drainComplete s).freq = s.freq := rfl
@[simp] theorem drainComplete_acc (s : State) : (drainComplete s).acc = s.acc := rfl
@[simp] theorem drainComplete_remain (s : State) : (drainComplete s).remain = 0#28 := rfl
@[simp] theorem drainComplete_cmdFifo (s : State) : (drainComplete s).cmdFifo = s.cmdFifo := rfl
@[simp] theorem drainComplete_outFifo (s : State) : (drainComplete s).outFifo = [] := rfl
@[simp] theorem drainComplete_samples (s : State) : (drainComplete s).samples = s.samples := rfl
@[simp] theorem drainComplete_segments (s : State) : (drainComplete s).segments = s.segments := rfl
@[simp] theorem drainComplete_irqDone (s : State) : (drainComplete s).irqDone = true := rfl
@[simp] theorem drainComplete_irqErr (s : State) : (drainComplete s).irqErr = s.irqErr := rfl
@[simp] theorem drainComplete_doneEn (s : State) : (drainComplete s).doneEn = s.doneEn := rfl
@[simp] theorem drainComplete_errEn (s : State) : (drainComplete s).errEn = s.errEn := rfl
@[simp] theorem drainComplete_code (s : State) : (drainComplete s).code = s.code := rfl
@[simp] theorem drainComplete_ecmd (s : State) : (drainComplete s).ecmd = s.ecmd := rfl
@[simp] theorem drainComplete_sinkLog (s : State) : (drainComplete s).sinkLog = s.sinkLog := rfl
@[simp] theorem drainComplete_runEnd (s : State) : (drainComplete s).runEnd = .done := rfl
@[simp] theorem drainComplete_hostQueue (s : State) : (drainComplete s).hostQueue = s.hostQueue := rfl
@[simp] theorem drainComplete_busLog (s : State) : (drainComplete s).busLog = s.busLog := rfl
@[simp] theorem drainComplete_schedule (s : State) : (drainComplete s).schedule = s.schedule := rfl
@[simp] theorem drainComplete_sinkStalled (s : State) : (drainComplete s).sinkStalled = s.sinkStalled := rfl

@[simp] theorem writeIrqEnable_cfg (v : Word) (s : State) : (writeIrqEnable v s).cfg = s.cfg := rfl
@[simp] theorem writeIrqEnable_engine (v : Word) (s : State) : (writeIrqEnable v s).engine = s.engine := rfl
@[simp] theorem writeIrqEnable_dreq (v : Word) (s : State) : (writeIrqEnable v s).dreq = s.dreq := rfl
@[simp] theorem writeIrqEnable_freq (v : Word) (s : State) : (writeIrqEnable v s).freq = s.freq := rfl
@[simp] theorem writeIrqEnable_acc (v : Word) (s : State) : (writeIrqEnable v s).acc = s.acc := rfl
@[simp] theorem writeIrqEnable_remain (v : Word) (s : State) : (writeIrqEnable v s).remain = s.remain := rfl
@[simp] theorem writeIrqEnable_cmdFifo (v : Word) (s : State) : (writeIrqEnable v s).cmdFifo = s.cmdFifo := rfl
@[simp] theorem writeIrqEnable_outFifo (v : Word) (s : State) : (writeIrqEnable v s).outFifo = s.outFifo := rfl
@[simp] theorem writeIrqEnable_samples (v : Word) (s : State) : (writeIrqEnable v s).samples = s.samples := rfl
@[simp] theorem writeIrqEnable_segments (v : Word) (s : State) : (writeIrqEnable v s).segments = s.segments := rfl
@[simp] theorem writeIrqEnable_irqDone (v : Word) (s : State) : (writeIrqEnable v s).irqDone = s.irqDone := rfl
@[simp] theorem writeIrqEnable_irqErr (v : Word) (s : State) : (writeIrqEnable v s).irqErr = s.irqErr := rfl
@[simp] theorem writeIrqEnable_doneEn (v : Word) (s : State) : (writeIrqEnable v s).doneEn = v.getLsbD 0 := rfl
@[simp] theorem writeIrqEnable_errEn (v : Word) (s : State) : (writeIrqEnable v s).errEn = v.getLsbD 1 := rfl
@[simp] theorem writeIrqEnable_code (v : Word) (s : State) : (writeIrqEnable v s).code = s.code := rfl
@[simp] theorem writeIrqEnable_ecmd (v : Word) (s : State) : (writeIrqEnable v s).ecmd = s.ecmd := rfl
@[simp] theorem writeIrqEnable_sinkLog (v : Word) (s : State) : (writeIrqEnable v s).sinkLog = s.sinkLog := rfl
@[simp] theorem writeIrqEnable_runEnd (v : Word) (s : State) : (writeIrqEnable v s).runEnd = s.runEnd := rfl
@[simp] theorem writeIrqEnable_hostQueue (v : Word) (s : State) : (writeIrqEnable v s).hostQueue = s.hostQueue := rfl
@[simp] theorem writeIrqEnable_busLog (v : Word) (s : State) : (writeIrqEnable v s).busLog = s.busLog := rfl
@[simp] theorem writeIrqEnable_schedule (v : Word) (s : State) : (writeIrqEnable v s).schedule = s.schedule := rfl
@[simp] theorem writeIrqEnable_sinkStalled (v : Word) (s : State) : (writeIrqEnable v s).sinkStalled = s.sinkStalled := rfl

@[simp] theorem acceptFrame_cfg (f : Sample) (fs : List Sample) (s : State) : (acceptFrame f fs s).cfg = s.cfg := rfl
@[simp] theorem acceptFrame_engine (f : Sample) (fs : List Sample) (s : State) : (acceptFrame f fs s).engine = s.engine := rfl
@[simp] theorem acceptFrame_dreq (f : Sample) (fs : List Sample) (s : State) : (acceptFrame f fs s).dreq = s.dreq := rfl
@[simp] theorem acceptFrame_freq (f : Sample) (fs : List Sample) (s : State) : (acceptFrame f fs s).freq = s.freq := rfl
@[simp] theorem acceptFrame_acc (f : Sample) (fs : List Sample) (s : State) : (acceptFrame f fs s).acc = s.acc := rfl
@[simp] theorem acceptFrame_remain (f : Sample) (fs : List Sample) (s : State) : (acceptFrame f fs s).remain = s.remain := rfl
@[simp] theorem acceptFrame_cmdFifo (f : Sample) (fs : List Sample) (s : State) : (acceptFrame f fs s).cmdFifo = s.cmdFifo := rfl
@[simp] theorem acceptFrame_outFifo (f : Sample) (fs : List Sample) (s : State) : (acceptFrame f fs s).outFifo = fs := rfl
@[simp] theorem acceptFrame_samples (f : Sample) (fs : List Sample) (s : State) : (acceptFrame f fs s).samples = s.samples + 1#32 := rfl
@[simp] theorem acceptFrame_segments (f : Sample) (fs : List Sample) (s : State) : (acceptFrame f fs s).segments = s.segments := rfl
@[simp] theorem acceptFrame_irqDone (f : Sample) (fs : List Sample) (s : State) : (acceptFrame f fs s).irqDone = s.irqDone := rfl
@[simp] theorem acceptFrame_irqErr (f : Sample) (fs : List Sample) (s : State) : (acceptFrame f fs s).irqErr = s.irqErr := rfl
@[simp] theorem acceptFrame_doneEn (f : Sample) (fs : List Sample) (s : State) : (acceptFrame f fs s).doneEn = s.doneEn := rfl
@[simp] theorem acceptFrame_errEn (f : Sample) (fs : List Sample) (s : State) : (acceptFrame f fs s).errEn = s.errEn := rfl
@[simp] theorem acceptFrame_code (f : Sample) (fs : List Sample) (s : State) : (acceptFrame f fs s).code = s.code := rfl
@[simp] theorem acceptFrame_ecmd (f : Sample) (fs : List Sample) (s : State) : (acceptFrame f fs s).ecmd = s.ecmd := rfl
@[simp] theorem acceptFrame_sinkLog (f : Sample) (fs : List Sample) (s : State) : (acceptFrame f fs s).sinkLog = s.sinkLog ++ [f] := rfl
@[simp] theorem acceptFrame_runEnd (f : Sample) (fs : List Sample) (s : State) : (acceptFrame f fs s).runEnd = s.runEnd := rfl
@[simp] theorem acceptFrame_hostQueue (f : Sample) (fs : List Sample) (s : State) : (acceptFrame f fs s).hostQueue = s.hostQueue := rfl
@[simp] theorem acceptFrame_busLog (f : Sample) (fs : List Sample) (s : State) : (acceptFrame f fs s).busLog = s.busLog := rfl
@[simp] theorem acceptFrame_schedule (f : Sample) (fs : List Sample) (s : State) : (acceptFrame f fs s).schedule = s.schedule := rfl
@[simp] theorem acceptFrame_sinkStalled (f : Sample) (fs : List Sample) (s : State) : (acceptFrame f fs s).sinkStalled = s.sinkStalled := rfl

@[simp] theorem answer_cfg (r : BusResponse) (s : State) : (answer r s).cfg = s.cfg := rfl
@[simp] theorem answer_engine (r : BusResponse) (s : State) : (answer r s).engine = s.engine := rfl
@[simp] theorem answer_dreq (r : BusResponse) (s : State) : (answer r s).dreq = s.dreq := rfl
@[simp] theorem answer_freq (r : BusResponse) (s : State) : (answer r s).freq = s.freq := rfl
@[simp] theorem answer_acc (r : BusResponse) (s : State) : (answer r s).acc = s.acc := rfl
@[simp] theorem answer_remain (r : BusResponse) (s : State) : (answer r s).remain = s.remain := rfl
@[simp] theorem answer_cmdFifo (r : BusResponse) (s : State) : (answer r s).cmdFifo = s.cmdFifo := rfl
@[simp] theorem answer_outFifo (r : BusResponse) (s : State) : (answer r s).outFifo = s.outFifo := rfl
@[simp] theorem answer_samples (r : BusResponse) (s : State) : (answer r s).samples = s.samples := rfl
@[simp] theorem answer_segments (r : BusResponse) (s : State) : (answer r s).segments = s.segments := rfl
@[simp] theorem answer_irqDone (r : BusResponse) (s : State) : (answer r s).irqDone = s.irqDone := rfl
@[simp] theorem answer_irqErr (r : BusResponse) (s : State) : (answer r s).irqErr = s.irqErr := rfl
@[simp] theorem answer_doneEn (r : BusResponse) (s : State) : (answer r s).doneEn = s.doneEn := rfl
@[simp] theorem answer_errEn (r : BusResponse) (s : State) : (answer r s).errEn = s.errEn := rfl
@[simp] theorem answer_code (r : BusResponse) (s : State) : (answer r s).code = s.code := rfl
@[simp] theorem answer_ecmd (r : BusResponse) (s : State) : (answer r s).ecmd = s.ecmd := rfl
@[simp] theorem answer_sinkLog (r : BusResponse) (s : State) : (answer r s).sinkLog = s.sinkLog := rfl
@[simp] theorem answer_runEnd (r : BusResponse) (s : State) : (answer r s).runEnd = s.runEnd := rfl
@[simp] theorem answer_hostQueue (r : BusResponse) (s : State) : (answer r s).hostQueue = s.hostQueue := rfl
@[simp] theorem answer_busLog (r : BusResponse) (s : State) : (answer r s).busLog = s.busLog ++ [r] := rfl
@[simp] theorem answer_schedule (r : BusResponse) (s : State) : (answer r s).schedule = s.schedule := rfl
@[simp] theorem answer_sinkStalled (r : BusResponse) (s : State) : (answer r s).sinkStalled = s.sinkStalled := rfl

@[simp] theorem hostAdvance_cfg (ops : List HostOp) (s : State) : (hostAdvance ops s).cfg = s.cfg := rfl
@[simp] theorem hostAdvance_engine (ops : List HostOp) (s : State) : (hostAdvance ops s).engine = s.engine := rfl
@[simp] theorem hostAdvance_dreq (ops : List HostOp) (s : State) : (hostAdvance ops s).dreq = s.dreq := rfl
@[simp] theorem hostAdvance_freq (ops : List HostOp) (s : State) : (hostAdvance ops s).freq = s.freq := rfl
@[simp] theorem hostAdvance_acc (ops : List HostOp) (s : State) : (hostAdvance ops s).acc = s.acc := rfl
@[simp] theorem hostAdvance_remain (ops : List HostOp) (s : State) : (hostAdvance ops s).remain = s.remain := rfl
@[simp] theorem hostAdvance_cmdFifo (ops : List HostOp) (s : State) : (hostAdvance ops s).cmdFifo = s.cmdFifo := rfl
@[simp] theorem hostAdvance_outFifo (ops : List HostOp) (s : State) : (hostAdvance ops s).outFifo = s.outFifo := rfl
@[simp] theorem hostAdvance_samples (ops : List HostOp) (s : State) : (hostAdvance ops s).samples = s.samples := rfl
@[simp] theorem hostAdvance_segments (ops : List HostOp) (s : State) : (hostAdvance ops s).segments = s.segments := rfl
@[simp] theorem hostAdvance_irqDone (ops : List HostOp) (s : State) : (hostAdvance ops s).irqDone = s.irqDone := rfl
@[simp] theorem hostAdvance_irqErr (ops : List HostOp) (s : State) : (hostAdvance ops s).irqErr = s.irqErr := rfl
@[simp] theorem hostAdvance_doneEn (ops : List HostOp) (s : State) : (hostAdvance ops s).doneEn = s.doneEn := rfl
@[simp] theorem hostAdvance_errEn (ops : List HostOp) (s : State) : (hostAdvance ops s).errEn = s.errEn := rfl
@[simp] theorem hostAdvance_code (ops : List HostOp) (s : State) : (hostAdvance ops s).code = s.code := rfl
@[simp] theorem hostAdvance_ecmd (ops : List HostOp) (s : State) : (hostAdvance ops s).ecmd = s.ecmd := rfl
@[simp] theorem hostAdvance_sinkLog (ops : List HostOp) (s : State) : (hostAdvance ops s).sinkLog = s.sinkLog := rfl
@[simp] theorem hostAdvance_runEnd (ops : List HostOp) (s : State) : (hostAdvance ops s).runEnd = s.runEnd := rfl
@[simp] theorem hostAdvance_hostQueue (ops : List HostOp) (s : State) : (hostAdvance ops s).hostQueue = ops := rfl
@[simp] theorem hostAdvance_busLog (ops : List HostOp) (s : State) : (hostAdvance ops s).busLog = s.busLog := rfl
@[simp] theorem hostAdvance_schedule (ops : List HostOp) (s : State) : (hostAdvance ops s).schedule = s.schedule := rfl
@[simp] theorem hostAdvance_sinkStalled (ops : List HostOp) (s : State) : (hostAdvance ops s).sinkStalled = s.sinkStalled := rfl

@[simp] theorem State.scheduled_cfg (m : Move) (s : State) : (State.scheduled m s).cfg = s.cfg := rfl
@[simp] theorem State.scheduled_engine (m : Move) (s : State) : (State.scheduled m s).engine = s.engine := rfl
@[simp] theorem State.scheduled_dreq (m : Move) (s : State) : (State.scheduled m s).dreq = s.dreq := rfl
@[simp] theorem State.scheduled_freq (m : Move) (s : State) : (State.scheduled m s).freq = s.freq := rfl
@[simp] theorem State.scheduled_acc (m : Move) (s : State) : (State.scheduled m s).acc = s.acc := rfl
@[simp] theorem State.scheduled_remain (m : Move) (s : State) : (State.scheduled m s).remain = s.remain := rfl
@[simp] theorem State.scheduled_cmdFifo (m : Move) (s : State) : (State.scheduled m s).cmdFifo = s.cmdFifo := rfl
@[simp] theorem State.scheduled_outFifo (m : Move) (s : State) : (State.scheduled m s).outFifo = s.outFifo := rfl
@[simp] theorem State.scheduled_samples (m : Move) (s : State) : (State.scheduled m s).samples = s.samples := rfl
@[simp] theorem State.scheduled_segments (m : Move) (s : State) : (State.scheduled m s).segments = s.segments := rfl
@[simp] theorem State.scheduled_irqDone (m : Move) (s : State) : (State.scheduled m s).irqDone = s.irqDone := rfl
@[simp] theorem State.scheduled_irqErr (m : Move) (s : State) : (State.scheduled m s).irqErr = s.irqErr := rfl
@[simp] theorem State.scheduled_doneEn (m : Move) (s : State) : (State.scheduled m s).doneEn = s.doneEn := rfl
@[simp] theorem State.scheduled_errEn (m : Move) (s : State) : (State.scheduled m s).errEn = s.errEn := rfl
@[simp] theorem State.scheduled_code (m : Move) (s : State) : (State.scheduled m s).code = s.code := rfl
@[simp] theorem State.scheduled_ecmd (m : Move) (s : State) : (State.scheduled m s).ecmd = s.ecmd := rfl
@[simp] theorem State.scheduled_sinkLog (m : Move) (s : State) : (State.scheduled m s).sinkLog = s.sinkLog := rfl
@[simp] theorem State.scheduled_runEnd (m : Move) (s : State) : (State.scheduled m s).runEnd = s.runEnd := rfl
@[simp] theorem State.scheduled_hostQueue (m : Move) (s : State) : (State.scheduled m s).hostQueue = s.hostQueue := rfl
@[simp] theorem State.scheduled_busLog (m : Move) (s : State) : (State.scheduled m s).busLog = s.busLog := rfl
@[simp] theorem State.scheduled_schedule (m : Move) (s : State) : (State.scheduled m s).schedule = m :: s.schedule := rfl
@[simp] theorem State.scheduled_sinkStalled (m : Move) (s : State) : (State.scheduled m s).sinkStalled = s.sinkStalled := rfl

@[simp] theorem State.hostNext_cfg (op : HostOp) (s : State) : (State.hostNext op s).cfg = s.cfg := rfl
@[simp] theorem State.hostNext_engine (op : HostOp) (s : State) : (State.hostNext op s).engine = s.engine := rfl
@[simp] theorem State.hostNext_dreq (op : HostOp) (s : State) : (State.hostNext op s).dreq = s.dreq := rfl
@[simp] theorem State.hostNext_freq (op : HostOp) (s : State) : (State.hostNext op s).freq = s.freq := rfl
@[simp] theorem State.hostNext_acc (op : HostOp) (s : State) : (State.hostNext op s).acc = s.acc := rfl
@[simp] theorem State.hostNext_remain (op : HostOp) (s : State) : (State.hostNext op s).remain = s.remain := rfl
@[simp] theorem State.hostNext_cmdFifo (op : HostOp) (s : State) : (State.hostNext op s).cmdFifo = s.cmdFifo := rfl
@[simp] theorem State.hostNext_outFifo (op : HostOp) (s : State) : (State.hostNext op s).outFifo = s.outFifo := rfl
@[simp] theorem State.hostNext_samples (op : HostOp) (s : State) : (State.hostNext op s).samples = s.samples := rfl
@[simp] theorem State.hostNext_segments (op : HostOp) (s : State) : (State.hostNext op s).segments = s.segments := rfl
@[simp] theorem State.hostNext_irqDone (op : HostOp) (s : State) : (State.hostNext op s).irqDone = s.irqDone := rfl
@[simp] theorem State.hostNext_irqErr (op : HostOp) (s : State) : (State.hostNext op s).irqErr = s.irqErr := rfl
@[simp] theorem State.hostNext_doneEn (op : HostOp) (s : State) : (State.hostNext op s).doneEn = s.doneEn := rfl
@[simp] theorem State.hostNext_errEn (op : HostOp) (s : State) : (State.hostNext op s).errEn = s.errEn := rfl
@[simp] theorem State.hostNext_code (op : HostOp) (s : State) : (State.hostNext op s).code = s.code := rfl
@[simp] theorem State.hostNext_ecmd (op : HostOp) (s : State) : (State.hostNext op s).ecmd = s.ecmd := rfl
@[simp] theorem State.hostNext_sinkLog (op : HostOp) (s : State) : (State.hostNext op s).sinkLog = s.sinkLog := rfl
@[simp] theorem State.hostNext_runEnd (op : HostOp) (s : State) : (State.hostNext op s).runEnd = s.runEnd := rfl
@[simp] theorem State.hostNext_hostQueue (op : HostOp) (s : State) : (State.hostNext op s).hostQueue = op :: s.hostQueue := rfl
@[simp] theorem State.hostNext_busLog (op : HostOp) (s : State) : (State.hostNext op s).busLog = s.busLog := rfl
@[simp] theorem State.hostNext_schedule (op : HostOp) (s : State) : (State.hostNext op s).schedule = s.schedule := rfl
@[simp] theorem State.hostNext_sinkStalled (op : HostOp) (s : State) : (State.hostNext op s).sinkStalled = s.sinkStalled := rfl

end Sys2Proof.Machine
end

