-- ==== Sys2Proof/Laws/Ops.lean ====
section
/-! SUPPORT. One law per shared operation: everything it can do, and what it keeps. -/

namespace Sys2Proof.Machine

/-! The FIFO and segment operations. -/

/-- A push into room keeps the FIFO bound (R42). -/
theorem pushCmd_bound {w : Word} {s : State} (h : cmdRoom s = true) :
    (pushCmd w s).cmdFifo.length ≤ (pushCmd w s).cfg.cmdDepth := by
  simp [cmdRoom] at h
  simp
  omega

/-- A push into room keeps the FIFO bound (R43). -/
theorem pushSample_bound {v : Sample} {s : State} (h : outRoom s = true) :
    (pushSample v s).outFifo.length ≤ (pushSample v s).cfg.outDepth := by
  simp [outRoom] at h
  simp
  omega

/-- The new ACC as a number: with R below 2^24 nothing is cut off (R44). -/
theorem advancePhase_toNat {s : State} (h : s.cfg.wf = true) :
    (advancePhase s).acc.toNat = (s.acc.toNat + s.freq.toNat) % s.cfg.rate := by
  simp only [Config.wf, decide_eq_true_eq] at h
  have hlt := Nat.mod_lt (s.acc.toNat + s.freq.toNat) (show 0 < s.cfg.rate by omega)
  simp only [advancePhase_acc, BitVec.toNat_ofNat]
  exact Nat.mod_eq_of_lt (by omega)

theorem advancePhase_lt {s : State} (h : s.cfg.wf = true) : (advancePhase s).acc.toNat < s.cfg.rate := by
  rw [advancePhase_toNat h]
  simp only [Config.wf, decide_eq_true_eq] at h
  exact Nat.mod_lt _ (by omega)

/-- `countSample`, said once: REM goes down by one, and the segment completes exactly when it becomes 0 (R119 to R121). -/
theorem countSample_eq (s : State) :
    countSample s =
      { s with
        remain := s.remain - 1#28
        segments := if s.remain - 1#28 = 0#28 then s.segments + 1#32 else s.segments
        engine := if s.remain - 1#28 = 0#28 then .ready else s.engine } := by
  simp only [countSample]
  split <;> rfl

/-- REM as a number after a sample. -/
theorem remain_pred {s : State} (h : 0 < s.remain.toNat) : (s.remain - 1#28).toNat + 1 = s.remain.toNat := by
  have := s.remain.isLt
  rw [BitVec.toNat_sub_of_le (by simp [BitVec.le_def]; omega)]
  simp
  omega

/-- A sample step is enabled when REM > 0 and OutFifo has room (R119, R120). -/
theorem sampleEnabled_iff {s : State} :
    sampleEnabled s = true ↔ 0 < s.remain.toNat ∧ s.outFifo.length < s.cfg.outDepth := by
  simp only [sampleEnabled, outRoom, Bool.and_eq_true, bne_iff_ne, ne_eq, decide_eq_true_eq, and_congr_left_iff]
  intro _
  constructor
  · intro h
    have : s.remain.toNat ≠ 0 := fun h0 => h (BitVec.eq_of_toNat_eq (by simpa using h0))
    omega
  · intro h h0
    simp [h0] at h

/-- `startSegment`, said once (R117, R118, R122). -/
theorem startSegment_eq (k : EngineState) (n : Operand) (s : State) :
    startSegment k n s =
      { s with
        acc := 0#24
        remain := if n = 0#28 then s.remain else n
        segments := if n = 0#28 then s.segments + 1#32 else s.segments
        engine := if n = 0#28 then s.engine else k } := by
  simp only [startSegment]
  split <;> rfl

/-! The commands. -/

/-- Every command completes in every state. -/
theorem exec_next (i : Instr) (s : State) : ∃ t, exec i s = .next t := by
  cases i <;> exact ⟨_, rfl⟩

/-! The bus. -/

/-- The four lanes of a word carry the word (R63). -/
@[simp] theorem wordOfLanes_fullLanes (v : Word) : wordOfLanes (fullLanes v) = some v := by
  simp only [wordOfLanes, fullLanes, laneOf, Option.some.injEq]
  apply BitVec.eq_of_getLsbD_eq
  intro i hi
  simp only [BitVec.getLsbD_append, BitVec.getLsbD_extractLsb']
  split
  · simp [*]
  split
  · rename_i h1 h2
    simp only [h2, decide_true, Bool.true_and]
    congr 1
    omega
  split
  · rename_i h1 h2 h3
    simp only [h3, decide_true, Bool.true_and]
    congr 1
    omega
  · rename_i h1 h2 h3
    simp only [show i - 8 - 8 - 8 < 8 by omega, decide_true, Bool.true_and]
    congr 1
    omega

/-- Lanes that carry a word are the four lanes of that word (R63). -/
theorem fullLanes_of_wordOfLanes {l : Lanes} {v : Word} (h : wordOfLanes l = some v) : l = fullLanes v := by
  obtain ⟨_ | x0, _ | x1, _ | x2, _ | x3⟩ := l <;> simp only [wordOfLanes, reduceCtorEq, Option.some.injEq] at h
  subst h
  simp only [fullLanes, laneOf, Lanes.mk.injEq, Option.some.injEq]
  refine ⟨?_, ?_, ?_, ?_⟩ <;> apply BitVec.eq_of_getLsbD_eq <;> intro i hi <;>
    simp only [BitVec.getLsbD_extractLsb', BitVec.getLsbD_append, hi, decide_true, Bool.true_and]
  · simp [hi]
  · simp [show ¬ 8 + i < 8 by omega, hi]
  · simp [show ¬ 16 + i < 8 by omega, show ¬ 16 + i - 8 < 8 by omega, show 16 + i - 8 - 8 = i by omega, hi]
  · simp [show ¬ 24 + i < 8 by omega, show ¬ 24 + i - 8 < 8 by omega, show ¬ 24 + i - 8 - 8 < 8 by omega,
      show 24 + i - 8 - 8 - 8 = i by omega]

/-- A whole-word access at a register's offset reaches that register (R23, R61). -/
@[simp] theorem busTarget_reg (cfg : Config) (r : Reg) : busTarget cfg (cfg.base + r.offset) .word = .reg r := by
  cases r <;> simp [busTarget, Reg.offset, Reg.ofIndex]

/-- An access that reaches a register is a whole-word access at its offset (R61, R62). -/
theorem busTarget_eq_reg {cfg : Config} {addr : Nat} {size : AccessSize} {r : Reg} (h : busTarget cfg addr size = .reg r) :
    size = .word ∧ addr = cfg.base + r.offset := by
  simp only [busTarget] at h
  split at h
  · cases h
  split at h
  · cases h
  rename_i hin hal
  obtain ⟨k, hk⟩ : ∃ k, (addr - cfg.base) / 4 = k := ⟨_, rfl⟩
  have hlt : k < 16 := by omega
  have ha : addr = cfg.base + 4 * k := by omega
  simp only [BusTarget.reg.injEq, hk] at h
  refine ⟨by simpa using fun hs => hal (.inl hs), ?_⟩
  rw [ha, ← h]
  interval_cases k <;> rfl

/-- The write of a word at a register's offset writes that register (R66). -/
theorem busWrite_reg (avail : Bool) (r : Reg) (v : Word) (s : State) :
    busWrite avail (s.cfg.base + r.offset) .word (fullLanes v) s =
      (writeReg avail r v s).map (fun t => (t, .writeDone)) := by
  simp only [busWrite, busTarget_reg, wordOfLanes_fullLanes]
  cases writeReg avail r v s <;> rfl

/-! What an enable, an abort and a CTRL write can do (R146 to R149). -/

theorem enable_cases (avail : Bool) (s : State) :
    enable avail s = s ∨
      (s.engine = .off ∧ s.code = .none ∧ avail = true ∧ enable avail s = startRun s) ∨
      (s.engine = .off ∧ s.code = .none ∧ avail = false ∧ enable avail s = fatal .deviceUnavailable 0#32 s) := by
  simp only [enable]
  split
  · exact .inl rfl
  split
  · exact .inl rfl
  split
  · exact .inr (.inl ⟨by simpa using ‹¬ s.engine ≠ .off›, by simpa using ‹¬ s.code ≠ .none›, ‹_›, rfl⟩)
  · exact .inr (.inr ⟨by simpa using ‹¬ s.engine ≠ .off›, by simpa using ‹¬ s.code ≠ .none›,
      by simpa using ‹¬ avail = true›, rfl⟩)

theorem abort_cases (s : State) :
    (s.engine = .off ∧ abort s = s) ∨ (s.engine ≠ .off ∧ abort s = closeRun .aborted { s with cmdFifo := [] }) := by
  simp only [abort]
  split
  · exact .inr ⟨‹_›, rfl⟩
  · exact .inl ⟨by simpa using ‹¬ s.engine ≠ .off›, rfl⟩

theorem writeCtrl_cases (avail : Bool) (v : Word) (s : State) :
    writeCtrl avail v s = s ∨ (v.getLsbD 1 = true ∧ writeCtrl avail v s = resetBlock s) ∨
      (v.getLsbD 1 = false ∧ v.getLsbD 0 = true ∧ s.engine = .off ∧ s.code = .none ∧ avail = true ∧
        writeCtrl avail v s = startRun s) ∨
      (v.getLsbD 1 = false ∧ v.getLsbD 0 = true ∧ s.engine = .off ∧ s.code = .none ∧ avail = false ∧
        writeCtrl avail v s = fatal .deviceUnavailable 0#32 s) ∨
      (v.getLsbD 1 = false ∧ v.getLsbD 0 = false ∧ s.engine ≠ .off ∧
        writeCtrl avail v s = closeRun .aborted { s with cmdFifo := [] }) := by
  simp only [writeCtrl]
  split
  · exact .inr (.inl ⟨‹_›, rfl⟩)
  rename_i h1
  split
  · rename_i h0
    obtain h | h | h := enable_cases avail s
    · exact .inl h
    · exact .inr (.inr (.inl ⟨by simpa using h1, h0, h⟩))
    · exact .inr (.inr (.inr (.inl ⟨by simpa using h1, h0, h⟩)))
  · rename_i h0
    obtain ⟨-, h⟩ | h := abort_cases s
    · exact .inl h
    · exact .inr (.inr (.inr (.inr ⟨by simpa using h1, by simpa using h0, h⟩)))

theorem writeIrqStatus_eq (v : Word) (s : State) :
    writeIrqStatus v s =
      { s with
        irqDone := if v.getLsbD 0 then false else s.irqDone
        irqErr := if v.getLsbD 1 then false else s.irqErr
        code := if v.getLsbD 1 then .none else s.code
        ecmd := if v.getLsbD 1 then 0#32 else s.ecmd } := by
  simp only [writeIrqStatus]
  split <;> split <;> rfl

/-- What a register write can do to the state, said once (R41, R146 to R152). -/
theorem writeReg_cases {avail : Bool} {r : Reg} {v : Word} {s t : State} (h : writeReg avail r v s = some t) :
    t = s ∨ (r = .ctrl ∧ v.getLsbD 1 = true ∧ t = resetBlock s) ∨
      (r = .ctrl ∧ v.getLsbD 1 = false ∧ v.getLsbD 0 = true ∧ s.engine = .off ∧ s.code = .none ∧ avail = true ∧
        t = startRun s) ∨
      (r = .ctrl ∧ v.getLsbD 1 = false ∧ v.getLsbD 0 = true ∧ s.engine = .off ∧ s.code = .none ∧ avail = false ∧
        t = fatal .deviceUnavailable 0#32 s) ∨
      (r = .ctrl ∧ v.getLsbD 1 = false ∧ v.getLsbD 0 = false ∧ s.engine ≠ .off ∧
        t = closeRun .aborted { s with cmdFifo := [] }) ∨
      (r = .irqStatus ∧ t = writeIrqStatus v s) ∨ (r = .irqEnable ∧ t = writeIrqEnable v s) ∨
      (r = .cmd ∧ cmdRoom s = true ∧ t = pushCmd v s) := by
  cases r <;> simp only [writeReg, Option.some.injEq] at h
  case ctrl =>
    subst h
    obtain h | h | h | h | h := writeCtrl_cases avail v s
    · exact .inl h
    · exact .inr (.inl ⟨rfl, h⟩)
    · exact .inr (.inr (.inl ⟨rfl, h⟩))
    · exact .inr (.inr (.inr (.inl ⟨rfl, h⟩)))
    · exact .inr (.inr (.inr (.inr (.inl ⟨rfl, h⟩))))
  case irqStatus => exact .inr (.inr (.inr (.inr (.inr (.inl ⟨rfl, h.symm⟩)))))
  case irqEnable => exact .inr (.inr (.inr (.inr (.inr (.inr (.inl ⟨rfl, h.symm⟩))))))
  case cmd =>
    simp only [writeCmd] at h
    split at h
    · exact .inr (.inr (.inr (.inr (.inr (.inr (.inr ⟨rfl, ‹_›, by simpa using h.symm⟩))))))
    · split at h
      · exact .inl (by simpa using h.symm)
      · cases h
  all_goals exact .inl h.symm

end Sys2Proof.Machine
end

