-- ==== Sys2Proof/Laws/Step.lean ====
section
/-! SUPPORT. What each agent's step can do, said once: the inversion lemmas the whole-machine statements rest on. -/

namespace Sys2Proof.Machine

/-- The next scheduled move is the one that runs. -/
theorem step_scheduled (m : Move) (s : State) : step (s.scheduled m) = runMove m s := rfl

theorem step_of_schedule {s : State} {m : Move} {rest : List Move} (h : s.schedule = m :: rest) :
    step s = runMove m { s with schedule := rest } := by
  simp only [step, h]

/-- A step, said once: a scheduled move, the eager move, or idle. -/
theorem step_cases {s t : State} (h : step s = .next t) :
    (∃ m rest, s.schedule = m :: rest ∧ runMove m { s with schedule := rest } = .next t) ∨
      (∃ m, s.schedule = [] ∧ eagerMove s = some m ∧ runMove m s = .next t) ∨ t = s := by
  simp only [step] at h
  split at h
  · rename_i m rest hs
    exact .inl ⟨m, rest, hs, h⟩
  · rename_i hs
    split at h
    · rename_i m hm
      exact .inr (.inl ⟨m, hs, hm, h⟩)
    · split at h
      · exact .inr (.inr (by simpa using h.symm))
      · cases h

/-- The eager move is never a reset, a clock or a refused move. -/
theorem eagerMove_cases {s : State} {m : Move} (h : eagerMove s = some m) :
    (s.sinkStalled = false ∧ m = .sink (.transfer true false) ∧ snkValid s = true) ∨
      (s.sinkStalled = false ∧ m = .sink .drainAck ∧ s.engine = .drain ∧ s.dreq = true) ∨
      (eagerSinkMove s = none ∧ m = .engine ∧ engineEnabled s = true) ∨
      (eagerSinkMove s = none ∧ engineEnabled s = false ∧ m = .host true ∧ hostEnabled s = true) := by
  simp only [eagerMove] at h
  split at h
  · rename_i k hk
    simp only [eagerSinkMove] at hk
    split at hk
    · cases hk
    rename_i hs
    have hs : s.sinkStalled = false := by simpa using hs
    split at hk
    · exact .inl ⟨hs, by simp_all, ‹_›⟩
    split at hk
    · rename_i hd
      exact .inr (.inl ⟨hs, by simp_all, hd⟩)
    · cases hk
  rename_i hk
  split at h
  · exact .inr (.inr (.inl ⟨hk, by simpa using h.symm, ‹_›⟩))
  rename_i he
  split at h
  · exact .inr (.inr (.inr ⟨hk, by simpa using he, by simpa using h.symm, ‹_›⟩))
  · cases h

/-- A bus write that completes changes the state by a register write at most. -/
theorem busWrite_cases {avail : Bool} {addr : Nat} {size : AccessSize} {lanes : Lanes} {s t : State} {r : BusResponse}
    (h : busWrite avail addr size lanes s = some (t, r)) :
    t = s ∨ ∃ g v, busTarget s.cfg addr size = .reg g ∧ wordOfLanes lanes = some v ∧ writeReg avail g v s = some t := by
  simp only [busWrite] at h
  split at h
  · exact .inl (by simp_all)
  · exact .inl (by simp_all)
  split at h
  · exact .inl (by simp_all)
  split at h
  · rename_i g hg _ v hv _ u hu
    simp only [Option.some.injEq, Prod.mk.injEq] at h
    exact .inr ⟨g, v, hg, hv, h.1 ▸ hu⟩
  · cases h

/-- The host's step, said once: a register write at most, and its own program and answers. -/
theorem hostStep_cases (avail : Bool) (s : State) :
    ∃ u q l, hostStep avail s = { u with hostQueue := q, busLog := l } ∧
      (u = s ∨ ∃ g v, s.hostWrites g.offset v ∧ writeReg avail g v s = some u) := by
  simp only [hostStep]
  split
  · exact ⟨s, s.hostQueue, s.busLog, rfl, .inl rfl⟩
  · rename_i op rest hq
    cases op with
    | read addr size => exact ⟨s, _, _, rfl, .inl rfl⟩
    | write addr size lanes =>
      simp only [hostPerform]
      split
      · rename_i u r hu
        refine ⟨u, _, _, rfl, ?_⟩
        obtain h | ⟨g, v, hg, hv, h⟩ := busWrite_cases hu
        · exact .inl h
        · obtain ⟨rfl, rfl⟩ := busTarget_eq_reg hg
          exact .inr ⟨g, v, ⟨rest, by rw [hq, fullLanes_of_wordOfLanes hv]; rfl⟩, h⟩
      · exact ⟨s, s.hostQueue, s.busLog, rfl, .inl rfl⟩
    | waitOff =>
      simp only [hostPerform]
      split
      · exact ⟨s, _, _, rfl, .inl rfl⟩
      · exact ⟨s, s.hostQueue, _, rfl, .inl rfl⟩

/-- The sink's transfer, said once (R172 to R176). -/
theorem sinkTransfer_cases (ready fail : Bool) (s : State) :
    sinkTransfer ready fail s = s ∨
      (∃ f rest, s.engine ≠ .off ∧ s.outFifo = f :: rest ∧ ready = true ∧ fail = false ∧
        sinkTransfer ready fail s = acceptFrame f rest s) ∨
      (s.engine ≠ .off ∧ s.outFifo ≠ [] ∧ fail = true ∧ sinkTransfer ready fail s = rejectFrame s) := by
  simp only [sinkTransfer]
  split
  · rename_i ho
    have ho' : s.engine ≠ .off := by simpa [snkOpen] using ho
    split
    · exact .inl rfl
    · rename_i f rest hf
      cases fail <;> cases ready <;> simp_all [sinkOutcome]
  · exact .inl rfl

theorem sinkDrainAck_cases (s : State) :
    sinkDrainAck s = s ∨ (s.engine = .drain ∧ s.dreq = true ∧ sinkDrainAck s = drainComplete s) := by
  simp only [sinkDrainAck]
  split
  · rename_i h
    exact .inr ⟨h.1, h.2, rfl⟩
  · exact .inl rfl

/-- The engine's decode step, said once (R140, R145). -/
theorem decodeStep_cases {s t : State} (h : decodeStep s = .next t) :
    t = s ∨ ∃ w rest, s.cmdFifo = w :: rest ∧
      ((∃ i, decode w = .legal i ∧ exec i { s with cmdFifo := rest } = .next t) ∨
        (illegalWord w = true ∧ t = fatal .illegalCommand w { s with cmdFifo := rest })) := by
  simp only [decodeStep] at h
  split at h
  · exact .inl (by simpa using h.symm)
  · rename_i w rest hc
    refine .inr ⟨w, rest, hc, ?_⟩
    simp only [runWord] at h
    split at h
    · rename_i i hd
      exact .inl ⟨i, hd, h⟩
    · rename_i why hd
      exact .inr ⟨illegalWord_iff.2 ⟨why, hd⟩, by simpa [illegalCommand] using h.symm⟩

/-- The engine's step, said once (R119, R120, R140, R141, R143). -/
theorem engineStep_cases {s t : State} (h : engineStep s = .next t) :
    t = s ∨
      (s.engine = .ready ∧ ∃ w rest, s.cmdFifo = w :: rest ∧
        ((∃ i, decode w = .legal i ∧ exec i { s with cmdFifo := rest } = .next t) ∨
          (illegalWord w = true ∧ t = fatal .illegalCommand w { s with cmdFifo := rest }))) ∨
      (s.engine = .tone ∧ sampleEnabled s = true ∧ t = toneSample s) ∨
      (s.engine = .sil ∧ sampleEnabled s = true ∧ t = silSample s) ∨
      (s.engine = .drain ∧ drainRequestEnabled s = true ∧ t = drainRequest s) := by
  simp only [engineStep] at h
  split at h <;> rename_i he
  · exact .inl (by simpa using h.symm)
  · obtain h | h := decodeStep_cases h
    · exact .inl h
    · exact .inr (.inl ⟨he, h⟩)
  · split at h
    · exact .inr (.inr (.inl ⟨he, ‹_›, by simpa using h.symm⟩))
    · exact .inl (by simpa using h.symm)
  · split at h
    · exact .inr (.inr (.inr (.inl ⟨he, ‹_›, by simpa using h.symm⟩)))
    · exact .inl (by simpa using h.symm)
  · split at h
    · exact .inr (.inr (.inr (.inr ⟨he, ‹_›, by simpa using h.symm⟩)))
    · exact .inl (by simpa using h.symm)

/-- The engine's step always completes: no command, word or sample stops the machine. -/
theorem engineStep_next (s : State) : ∃ t, engineStep s = .next t := by
  simp only [engineStep]
  split
  · exact ⟨_, rfl⟩
  · simp only [decodeStep]
    split
    · exact ⟨_, rfl⟩
    · simp only [runWord]
      split
      · exact exec_next _ _
      · exact ⟨_, rfl⟩
  all_goals exact ⟨_, rfl⟩

/-! The enabling conditions, in the state's own fields. -/

/-- The engine's enabling conditions (R119, R120, R140, R143). -/
theorem engineEnabled_iff (s : State) : engineEnabled s = true ↔ s.engineCanMove := by
  simp only [engineEnabled, State.engineCanMove]
  cases s.engine <;> simp [sampleEnabled_iff, cmdEmpty, drainRequestEnabled, outEmpty]

/-- The Sink's (R144, R172, R243). -/
theorem eagerSinkMove_none (s : State) : eagerSinkMove s = none ↔ ¬ s.sinkCanMove := by
  simp only [eagerSinkMove, State.sinkCanMove, snkValid, snkOpen, outEmpty]
  cases s.sinkStalled <;> simp
  grind

/-- A register write is held only at CMD, with CmdFifo full in a run (R152). -/
theorem writeReg_none {avail : Bool} {r : Reg} {v : Word} {s : State} :
    writeReg avail r v s = none ↔ r = .cmd ∧ s.engine ≠ .off ∧ ¬ s.cmdFifo.length < s.cfg.cmdDepth := by
  cases r <;> simp only [writeReg, reduceCtorEq, false_and, true_and]
  simp only [writeCmd]
  split
  · simp_all [cmdRoom]
  · split <;> simp_all [cmdRoom]

/-- The host's (R70, R152). -/
theorem hostEnabled_iff (s : State) : hostEnabled s = true ↔ s.hostCanMove := by
  simp only [hostEnabled, State.hostCanMove, State.heldWrite, State.hostWrites]
  split
  · simp [*]
  rename_i op rest hq
  simp only [hq, ne_eq, reduceCtorEq, not_false_eq_true, true_and, Bool.not_eq_true']
  rw [← Bool.not_eq_true, not_iff_not]
  cases op with
  | read addr size => simp [hostHeld, mmioWrite]
  | waitOff => simp [hostHeld, mmioWrite]
  | write addr size lanes =>
    simp only [hostHeld, Option.isNone_iff_eq_none]
    constructor
    · intro h
      simp only [busWrite] at h
      split at h
      · cases h
      · cases h
      split at h
      · cases h
      split at h
      · cases h
      rename_i r hr _ v hv _ hw
      obtain ⟨rfl, rfl⟩ := busTarget_eq_reg hr
      obtain ⟨rfl, hf⟩ := writeReg_none.1 hw
      exact ⟨⟨v, rest, by rw [fullLanes_of_wordOfLanes hv]; rfl⟩, hf⟩
    · rintro ⟨⟨w, r, h⟩, hf⟩
      simp only [mmioWrite, List.cons.injEq, HostOp.write.injEq] at h
      obtain ⟨⟨rfl, rfl, rfl⟩, -⟩ := h
      rw [show s.cfg.base + 0x24 = s.cfg.base + Reg.cmd.offset from rfl, busWrite_reg, writeReg_none.2 ⟨rfl, hf⟩]
      rfl

/-- No move comes exactly where no agent has an enabled step (R245). -/
theorem eagerMove_none (s : State) : eagerMove s = none ↔ s.noMove := by
  simp only [State.noMove, ← engineEnabled_iff, ← hostEnabled_iff, ← eagerSinkMove_none, eagerMove]
  split
  · simp [*]
  · simp only [*, true_and]
    cases engineEnabled s <;> cases hostEnabled s <;> simp

/-- No move faults: only a state without a move does. -/
theorem runMove_ne_fault (m : Move) (s : State) (r : Fault) : runMove m s ≠ .fault r := by
  cases m with
  | reset => simp [runMove]
  | host avail => simp [runMove]
  | sink k => cases k <;> simp [runMove, sinkStep]
  | engine =>
    obtain ⟨t, ht⟩ := engineStep_next s
    simp [runMove, ht]
  | otherHost op => simp [runMove]
  | clock e =>
    simp only [runMove, clockStep, andThen]
    split
    · split
      · rename_i u _ _
        obtain ⟨t, ht⟩ := engineStep_next u
        simp [ht]
      · simp
    · rename_i r h
      simp only [sinkEvent] at h
      split at h
      · cases h
      · rename_i k _
        cases k <;> cases h
    · simp

/-- A move of one agent, said once: everything it can do to the state (R12, R13). -/
theorem runMove_single {m : Move} {s t : State} (hm : m.single = true) (h : runMove m s = .next t) :
    (∃ q l, t = { s with hostQueue := q, busLog := l }) ∨
    (m = .reset ∧ t = resetBlock s) ∨
    (∃ avail u q l g v, m = .host avail ∧ s.hostWrites g.offset v ∧ writeReg avail g v s = some u ∧
      t = { u with hostQueue := q, busLog := l }) ∨
    (∃ f rest, m = .sink (.transfer true false) ∧ s.engine ≠ .off ∧ s.outFifo = f :: rest ∧ t = acceptFrame f rest s) ∨
    (∃ ready, m = .sink (.transfer ready true) ∧ s.engine ≠ .off ∧ s.outFifo ≠ [] ∧ t = rejectFrame s) ∨
    (m = .sink .drainAck ∧ s.engine = .drain ∧ s.dreq = true ∧ t = drainComplete s) ∨
    (m = .engine ∧
      ((s.engine = .ready ∧ ∃ w rest, s.cmdFifo = w :: rest ∧
        ((∃ i, decode w = .legal i ∧ exec i { s with cmdFifo := rest } = .next t) ∨
          (illegalWord w = true ∧ t = fatal .illegalCommand w { s with cmdFifo := rest }))) ∨
      (s.engine = .tone ∧ sampleEnabled s = true ∧ t = toneSample s) ∨
      (s.engine = .sil ∧ sampleEnabled s = true ∧ t = silSample s) ∨
      (s.engine = .drain ∧ drainRequestEnabled s = true ∧ t = drainRequest s))) := by
  cases m with
  | reset =>
    exact .inr (.inl ⟨rfl, by simpa [runMove, resetStep] using h.symm⟩)
  | host avail =>
    obtain ⟨u, q, l, hu, hc⟩ := hostStep_cases avail s
    have ht : hostStep avail s = t := by simpa [runMove] using h
    rw [hu] at ht
    obtain hs | ⟨g, v, hg, hw⟩ := hc
    · exact .inl ⟨q, l, by rw [← ht, hs]⟩
    · exact .inr (.inr (.inl ⟨avail, u, q, l, g, v, rfl, hg, hw, ht.symm⟩))
  | sink k =>
    cases k with
    | transfer ready fail =>
      have h : sinkTransfer ready fail s = t := by simpa [runMove, sinkStep] using h
      obtain hk | ⟨f, rest, ho, hf, rfl, rfl, hk⟩ | ⟨ho, hf, rfl, hk⟩ := sinkTransfer_cases ready fail s <;> rw [hk] at h
      · exact .inl ⟨s.hostQueue, s.busLog, h.symm⟩
      · exact .inr (.inr (.inr (.inl ⟨f, rest, rfl, ho, hf, h.symm⟩)))
      · exact .inr (.inr (.inr (.inr (.inl ⟨ready, rfl, ho, hf, h.symm⟩))))
    | drainAck =>
      have h : sinkDrainAck s = t := by simpa [runMove, sinkStep] using h
      obtain hk | ⟨he, hd, hk⟩ := sinkDrainAck_cases s <;> rw [hk] at h
      · exact .inl ⟨s.hostQueue, s.busLog, h.symm⟩
      · exact .inr (.inr (.inr (.inr (.inr (.inl ⟨rfl, he, hd, h.symm⟩)))))
    | halfFrame => cases h
  | engine =>
    obtain rfl | h := engineStep_cases h
    · exact .inl ⟨_, _, rfl⟩
    · exact .inr (.inr (.inr (.inr (.inr (.inr ⟨rfl, h⟩)))))
  | clock e => cases hm
  | otherHost op => cases h

/-- A property that the moves of the single agents keep is kept by a clock (R203). -/
theorem clockStep_keeps {P : State → Prop} (reset : ∀ s, P s → P (resetBlock s))
    (host : ∀ avail s, P s → P (hostStep avail s))
    (sink : ∀ m s t, sinkStep m s = .next t → P s → P t)
    (engine : ∀ s t, engineStep s = .next t → P s → P t)
    {e : ClockEvents} {s t : State} (h : clockStep e s = .next t) (hs : P s) : P t := by
  simp only [clockStep] at h
  have h1 : P (if e.reset then resetStep s else s) := by
    split
    · exact reset s hs
    · exact hs
  have h2 := host e.avail _ h1
  revert h
  generalize hu : (if e.host then hostStep e.avail (if e.reset then resetStep s else s)
    else if e.reset then resetStep s else s) = u
  intro h
  have h3 : P u := by
    rw [← hu]
    split
    · exact h2
    · exact h1
  simp only [andThen] at h
  split at h <;> rename_i o ho
  · have h4 : P o := by
      simp only [sinkEvent] at ho
      split at ho
      · exact (by simpa using ho : u = o) ▸ h3
      · exact sink _ _ _ ho h3
    split at h
    · exact engine _ _ h h4
    · exact (by simpa using h : o = t) ▸ h4
  · cases h
  · cases h

/-- A property that the moves of the single agents keep is kept by every move. -/
theorem runMove_keeps {P : State → Prop} (reset : ∀ s, P s → P (resetBlock s))
    (host : ∀ avail s, P s → P (hostStep avail s))
    (sink : ∀ m s t, sinkStep m s = .next t → P s → P t)
    (engine : ∀ s t, engineStep s = .next t → P s → P t)
    {m : Move} {s t : State} (h : runMove m s = .next t) (hs : P s) : P t := by
  cases m with
  | reset => exact (by simpa [runMove, resetStep] using h : resetBlock s = t) ▸ reset s hs
  | host avail => exact (by simpa [runMove] using h : hostStep avail s = t) ▸ host avail s hs
  | sink m => exact sink m s t h hs
  | engine => exact engine s t h hs
  | clock e => exact clockStep_keeps reset host sink engine h hs
  | otherHost op => cases h

/-- A host write of a word at a register's offset, said once: the register write's state with the write answered, or the
write held at the head of the host's program (R66, R152). -/
theorem step_hostWrite (s : State) (avail : Bool) (r : Reg) (v : Word) (off : Nat) (h : r.offset = off) :
    step ((s.hostNext (mmioWrite s.cfg off v)).scheduled (.host avail)) =
      .next (match writeReg avail r v (s.hostNext (mmioWrite s.cfg off v)) with
        | some t => hostAdvance s.hostQueue (answer .writeDone t)
        | none => s.hostNext (mmioWrite s.cfg off v)) := by
  subst h
  rw [step_scheduled]
  have hb := busWrite_reg avail r v (s.hostNext (mmioWrite s.cfg r.offset v))
  simp only [runMove, hostStep, State.hostNext_hostQueue, hostPerform, mmioWrite] at *
  simp only [State.hostNext_cfg] at hb
  rw [hb]
  cases writeReg avail r v _ <;> rfl

end Sys2Proof.Machine
end

