-- ==== Sys2Proof/Laws/Invariant.lean ====
section
/-! SUPPORT. Each shared operation keeps the invariant of spec/10_state.md R47 (Safety.lean), under the conditions in which
its rule runs it. -/

namespace Sys2Proof.Machine

/-- The environment's fields are no part of the invariant. -/
theorem State.Inv.environment {s : State} (h : s.Inv) (q : List HostOp) (l : List BusResponse) (m : List Move) :
    ({ s with hostQueue := q, busLog := l, schedule := m } : State).Inv :=
  { h with }

/-- No segment is in progress outside TONE and SIL, so REM is 0 there (R47 (b)). -/
theorem State.Inv.remain_zero {s : State} (h : s.Inv) (ht : s.engine ≠ .tone) (hs : s.engine ≠ .sil) : s.remain = 0#28 := by
  have h0 : ¬ 0 < s.remain.toNat := fun hp => by
    obtain h | h := h.segment.2 hp <;> contradiction
  exact BitVec.eq_of_toNat_eq (by simp; omega)

theorem State.Inv.dreq_false {s : State} (h : s.Inv) (hd : s.engine ≠ .drain) : s.dreq = false := by
  by_contra hc
  exact hd (h.drain (by simpa using hc)).1

theorem State.Inv.code_none {s : State} (h : s.Inv) (ho : s.engine ≠ .off) : s.code = .none := by
  by_contra hc
  exact ho (h.latched hc)

theorem resetBlock_inv {s : State} (h : s.Inv) : (resetBlock s).Inv := by
  have h' := h.params
  simp only [Config.wf, decide_eq_true_eq] at h'
  constructor <;> simp
  · exact h.params
  · omega
  · by_cases ho : s.engine = .off
    · simpa [ho] using h.running
    · simp [ho]

theorem fatal_inv {s : State} (h : s.Inv) {c : ErrorCode} {w : Word} (hc : c ≠ .none)
    (hi : c = .illegalCommand → illegalWord w = true) (hn : c ≠ .illegalCommand → w = 0#32) : (fatal c w s).Inv := by
  constructor <;> simp
  · exact h.params
  · exact hi
  · exact hn
  · exact h.phase
  · exact hc

theorem startRun_inv {s : State} (h : s.Inv) (ho : s.engine = .off) (hc : s.code = .none) : (startRun s).Inv := by
  have hr := h.remain_zero (by simp [ho]) (by simp [ho])
  constructor <;> simp [hr, hc]
  · exact h.params
  · exact h.noWord (by simp [hc])
  · exact h.phase
  · simpa [hc] using h.err
  · exact h.cmdBound
  · exact h.outBound

theorem abortRun_inv {s : State} (h : s.Inv) (ho : s.engine ≠ .off) : (closeRun .aborted { s with cmdFifo := [] }).Inv := by
  constructor <;> simp
  · exact h.params
  · exact h.illegal
  · exact h.noWord
  · exact h.phase
  · exact h.err
  · exact h.code_none ho

theorem drainComplete_inv {s : State} (h : s.Inv) (ho : s.engine ≠ .off) : (drainComplete s).Inv := by
  constructor <;> simp
  · exact h.params
  · exact h.illegal
  · exact h.noWord
  · exact h.phase
  · exact h.err
  · exact h.cmdBound
  · exact h.code_none ho

theorem pushCmd_inv {s : State} (h : s.Inv) {w : Word} (hr : cmdRoom s = true) : (pushCmd w s).Inv :=
  { h with cmdBound := pushCmd_bound hr }

theorem writeIrqStatus_inv {s : State} (h : s.Inv) (v : Word) : (writeIrqStatus v s).Inv := by
  rw [writeIrqStatus_eq]
  split
  · split
    · exact { h with latched := by simp, illegal := by simp, noWord := by simp, err := by simp, lastError := by simp }
    · exact { h with }
  · split
    · exact { h with latched := by simp, illegal := by simp, noWord := by simp, err := by simp, lastError := by simp }
    · exact { h with }

theorem writeIrqEnable_inv {s : State} (h : s.Inv) (v : Word) : (writeIrqEnable v s).Inv := { h with }

theorem writeReg_inv {s t : State} (h : s.Inv) {avail : Bool} {r : Reg} {v : Word} (hw : writeReg avail r v s = some t) :
    t.Inv := by
  obtain rfl | ⟨-, -, rfl⟩ | ⟨-, -, -, ho, hc, -, rfl⟩ | ⟨-, -, -, ho, hc, -, rfl⟩ | ⟨-, -, -, ho, rfl⟩ | ⟨-, rfl⟩ |
    ⟨-, rfl⟩ | ⟨-, hr, rfl⟩ := writeReg_cases hw
  · exact h
  · exact resetBlock_inv h
  · exact startRun_inv h ho hc
  · exact fatal_inv h (by simp) (by simp) (by simp)
  · exact abortRun_inv h ho
  · exact writeIrqStatus_inv h v
  · exact writeIrqEnable_inv h v
  · exact pushCmd_inv h hr

theorem hostStep_inv {s : State} (h : s.Inv) (avail : Bool) : (hostStep avail s).Inv := by
  obtain ⟨u, q, l, hu, hc⟩ := hostStep_cases avail s
  rw [hu]
  have hi : u.Inv := by
    obtain rfl | ⟨g, v, -, hw⟩ := hc
    · exact h
    · exact writeReg_inv h hw
  exact hi.environment q l u.schedule

theorem acceptFrame_inv {s : State} (h : s.Inv) {f : Sample} {rest : List Sample} (ho : s.engine ≠ .off)
    (hf : s.outFifo = f :: rest) : (acceptFrame f rest s).Inv :=
  { h with
    offOut := fun hc => absurd hc ho
    drain := fun hc => by
      have := (h.drain hc).2
      simp [hf] at this
    outBound := by
      have := h.outBound
      simp only [hf, List.length_cons] at this
      simp
      omega }

theorem sinkStep_inv {m : SinkMove} {s t : State} (h : s.Inv) (hm : sinkStep m s = .next t) : t.Inv := by
  cases m with
  | transfer ready fail =>
    obtain rfl : sinkTransfer ready fail s = t := by simpa [sinkStep] using hm
    obtain hk | ⟨f, rest, ho, hf, -, -, hk⟩ | ⟨ho, hf, -, hk⟩ := sinkTransfer_cases ready fail s <;> rw [hk]
    · exact h
    · exact acceptFrame_inv h ho hf
    · exact fatal_inv h (by simp) (by simp) (by simp)
  | drainAck =>
    obtain rfl : sinkDrainAck s = t := by simpa [sinkStep] using hm
    obtain hk | ⟨he, -, hk⟩ := sinkDrainAck_cases s <;> rw [hk]
    · exact h
    · exact drainComplete_inv h (by simp [he])
  | halfFrame => cases hm

theorem popCmd_inv {s : State} (h : s.Inv) {w : Word} {rest : List Word} (hc : s.cmdFifo = w :: rest) :
    ({ s with cmdFifo := rest } : State).Inv :=
  { h with
    cmdBound := by
      have := h.cmdBound
      simp only [hc, List.length_cons] at this
      simp
      omega }

theorem startSegment_inv {k : EngineState} {n : Operand} {s : State} (h : s.Inv) (he : s.engine = .ready)
    (hk : k = .tone ∨ k = .sil) : (startSegment k n s).Inv := by
  have hw := h.params
  simp only [Config.wf, decide_eq_true_eq] at hw
  have hp : 0 < s.cfg.rate := by omega
  have hd := h.dreq_false (by simp [he])
  have hr := h.remain_zero (by simp [he]) (by simp [he])
  have hc := h.code_none (by simp [he])
  rw [startSegment_eq]
  split
  · exact { h with phase := by simpa using hp, segment := by simp [he, hr], silPhase := by simp }
  · rename_i hn
    have hn' : s.runEnd = .notEnded := h.running.2 (by simp [he])
    refine { h with offOut := ?_, offDreq := ?_, segment := ?_, drain := ?_, latched := ?_, phase := ?_, silPhase := ?_,
                    running := ?_ }
    · obtain rfl | rfl := hk <;> simp
    · obtain rfl | rfl := hk <;> simp
    · have : n.toNat ≠ 0 := fun h0 => hn (BitVec.eq_of_toNat_eq (by simpa using h0))
      simp only [hk, true_iff]
      omega
    · simp [hd]
    · simp [hc]
    · simpa using hp
    · simp
    · obtain rfl | rfl := hk <;> simp [hn']

theorem exec_inv {i : Instr} {s t : State} (h : s.Inv) (he : s.engine = .ready) (hx : exec i s = .next t) : t.Inv := by
  cases i with
  | setf f =>
    obtain rfl : ({ s with freq := operand28 f } : State) = t := by simpa [exec, execSetf] using hx
    exact { h with }
  | tone n =>
    obtain rfl : startSegment .tone (operand28 n) s = t := by simpa [exec, execTone] using hx
    exact startSegment_inv h he (.inl rfl)
  | sil n =>
    obtain rfl : startSegment .sil (operand28 n) s = t := by simpa [exec, execSil] using hx
    exact startSegment_inv h he (.inr rfl)
  | drain =>
    obtain rfl : ({ s with engine := .drain, dreq := false } : State) = t := by simpa [exec, execDrain] using hx
    have hr := h.remain_zero (by simp [he]) (by simp [he])
    have hc := h.code_none (by simp [he])
    exact { h with offOut := by simp, offDreq := by simp, segment := by simp [hr], drain := by simp, latched := by simp [hc],
                   silPhase := by simp, running := by simp [h.running.2 (by simp [he])] }

/-- The end of a sample step keeps the invariant, given what the push and the phase leave (R119 to R121). -/
theorem countSample_inv {s : State} (he : s.engine = .tone ∨ s.engine = .sil) (hp : s.cfg.wf = true)
    (hr : 0 < s.remain.toNat) (hd : s.dreq = false) (hc : s.code = .none) (hw : s.ecmd = 0#32) (ha : s.acc.toNat < s.cfg.rate)
    (hir : s.irqErr = false) (hcb : s.cmdFifo.length ≤ s.cfg.cmdDepth) (hob : s.outFifo.length ≤ s.cfg.outDepth)
    (hs : s.engine = .sil → s.acc = 0#24) (hn : s.runEnd = .notEnded) : (countSample s).Inv := by
  have h1 := remain_pred hr
  rw [countSample_eq]
  by_cases h0 : s.remain - 1#28 = 0#28
  · constructor <;> simp_all
  · have h2 : (s.remain - 1#28).toNat ≠ 0 := fun hz => h0 (BitVec.eq_of_toNat_eq (by simpa using hz))
    simp only [h0, if_false]
    constructor <;> simp only [hp, hd, hc, hw, hir, hn]
    · rintro h
      simp [h] at he
    · simp
    · simp only [he, true_iff]
      omega
    · simp
    · simp
    · simp
    · simp
    · exact ha
    · simp
    · exact hcb
    · exact hob
    · exact hs
    · obtain h | h := he <;> simp [h]
    · simp

theorem sampleStep_inv {s u : State} (h : s.Inv) (he : s.engine = .tone ∨ s.engine = .sil) (hen : sampleEnabled s = true)
    (v : Sample) (a : Phase) (ha : a.toNat < s.cfg.rate) (hs : s.engine = .sil → a = 0#24)
    (hu : u = countSample { s with outFifo := s.outFifo ++ [v], acc := a }) : u.Inv := by
  have hen' := sampleEnabled_iff.1 hen
  have ho : s.engine ≠ .off := by obtain h | h := he <;> simp [h]
  have hdr : s.engine ≠ .drain := by obtain h | h := he <;> simp [h]
  have hc := h.code_none ho
  subst hu
  refine countSample_inv (s := { s with outFifo := s.outFifo ++ [v], acc := a }) he h.params hen'.1 (h.dreq_false hdr) hc
    (h.noWord (by simp [hc])) ha ?_ h.cmdBound ?_ hs (h.running.2 ho)
  · simpa [hc] using h.err
  · simp
    omega

theorem engineStep_inv {s t : State} (h : s.Inv) (hm : engineStep s = .next t) : t.Inv := by
  obtain rfl | ⟨he, w, rest, hc, ⟨i, -, hx⟩ | ⟨hw, rfl⟩⟩ | ⟨he, hen, rfl⟩ | ⟨he, hen, rfl⟩ | ⟨he, hen, rfl⟩ :=
    engineStep_cases hm
  · exact h
  · exact exec_inv (popCmd_inv h hc) he hx
  · exact fatal_inv (popCmd_inv h hc) (by simp) (fun _ => hw) (by simp)
  · exact sampleStep_inv h (.inl he) hen (currentSample s) (advancePhase s).acc (advancePhase_lt h.params)
      (by simp [he]) rfl
  · exact sampleStep_inv h (.inr he) hen 0#16 s.acc h.phase h.silPhase rfl
  · simp only [drainRequestEnabled, outEmpty, Bool.and_eq_true, beq_iff_eq, List.length_eq_zero_iff] at hen
    exact { h with offDreq := by simp [he], drain := fun _ => ⟨he, hen.2⟩ }

end Sys2Proof.Machine
end

