-- ==== Sys2Proof/Laws/PerInstr.lean ====
section
/-! SUPPORT. The statements made per instruction (LAWS.json): the fields of an encoded command. -/

namespace Sys2Proof.Laws.EncodedFields

/-- The command's opcode (spec/30_encoding.md R93). -/
def opcodeOf : Instr → Nat
  | .setf _ => 1
  | .tone _ => 2
  | .sil _ => 3
  | .drain => 4

/-- The command's operand; DRAIN's must be 0 (R92). -/
def operandOf : Instr → Nat
  | .setf f => f
  | .tone n => n
  | .sil n => n
  | .drain => 0

/-- OP and ARG of an encoded well-formed command are its opcode and its operand (R91, R92, R96). -/
def Statement (i : Instr) : Prop :=
  i.wellFormed = true → (opField (encode i)).toNat = opcodeOf i ∧ (argField (encode i)).toNat = operandOf i

theorem setf (f : Nat) : Statement (.setf f) := by
  intro h
  have hf : f < operandBound := by simpa [Instr.wellFormed] using h
  have hf' : f < 2 ^ 28 := hf
  rw [opField_toNat, argField_toNat, encode_setf_toNat hf]
  simp only [opcodeOf, operandOf]
  omega

theorem tone (n : Nat) : Statement (.tone n) := by
  intro h
  have hn : n < operandBound := by simpa [Instr.wellFormed] using h
  have hn' : n < 2 ^ 28 := hn
  rw [opField_toNat, argField_toNat, encode_tone_toNat hn]
  simp only [opcodeOf, operandOf]
  omega

theorem sil (n : Nat) : Statement (.sil n) := by
  intro h
  have hn : n < operandBound := by simpa [Instr.wellFormed] using h
  have hn' : n < 2 ^ 28 := hn
  rw [opField_toNat, argField_toNat, encode_sil_toNat hn]
  simp only [opcodeOf, operandOf]
  omega

theorem drain : Statement .drain := by
  intro _
  decide

end Sys2Proof.Laws.EncodedFields
end

