-- ==== Sys2Proof/Tests/Slice0.lean ====
section
/-! SUPPORT. Tests: the well-formedness smoke test, the decoding of words written out from the encodings of
spec/30_encoding.md, one-step tests against the vectors of spec/95_test_vectors.md, and for each statement of
Certificates/Slice0/Obligations.lean with hypotheses a witness that meets them. Every expected value is the spec's. -/

namespace Sys2Proof.Tests

open Sys2Proof Sys2Proof.Machine

/-! States of the tests. -/

/-- READY, with these words queued. -/
def ready (ws : List Word) : State := { State.reset with engine := .ready, runEnd := .notEnded, cmdFifo := ws }

/-- A TONE segment in progress. -/
def toning (f n : Nat) (out : List Sample) : State :=
  { State.reset with engine := .tone, runEnd := .notEnded, freq := operand28 f, remain := operand28 n, outFifo := out }

/-- A SIL segment in progress. -/
def silent (n : Nat) (out : List Sample) : State :=
  { State.reset with engine := .sil, runEnd := .notEnded, remain := operand28 n, outFifo := out }

/-- DRAIN in progress. -/
def draining (dreq : Bool) (out : List Sample) : State :=
  { State.reset with engine := .drain, runEnd := .notEnded, dreq := dreq, outFifo := out }

/-- OFF with a latched write failure. -/
def failed : State :=
  { State.reset with code := .writeFailure, irqErr := true, runEnd := .error .writeFailure 0#32 }

/-- The Sink takes no step after the scheduled ones. -/
def stalled (s : State) : State := { s with sinkStalled := true }

/-- The smallest build: one command, two samples. -/
def small (s : State) : State := { s with cfg := { rate := 44100, cmdDepth := 1, outDepth := 2, base := 64 } }

/-- The host is about to write v at this offset. -/
def writing (off : Nat) (v : Word) (s : State) : State := (s.hostNext (mmioWrite s.cfg off v)).scheduled (.host true)

/-- The state after a step, or the same state where it stops. -/
def after (s : State) : State := match step s with | .next t => t | .fault _ => s | .refused _ => s

/-- The step completes. -/
def completes (s : State) : Bool := match step s with | .next _ => true | .fault _ => false | .refused _ => false

theorem step_after {s : State} (h : completes s = true) : step s = .next (after s) := by
  simp only [completes, after] at *
  split <;> simp_all

/-! Well-formedness: an ill-formed term for each check (R96, R97). -/

theorem test_wf_refuses_setf : (Instr.setf 268435456).wellFormed = false := by decide
theorem test_wf_refuses_tone : (Instr.tone 268435456).wellFormed = false := by decide
theorem test_wf_refuses_sil : (Instr.sil 268435456).wellFormed = false := by decide
theorem test_wf_admits_bound : (Instr.setf 268435455).wellFormed = true ∧ Instr.drain.wellFormed = true := by decide
theorem test_config_refuses :
    ({ Config.default with rate := 0 } : Config).wf = false ∧ ({ Config.default with rate := 2 ^ 24 } : Config).wf = false ∧
    ({ Config.default with cmdDepth := 0 } : Config).wf = false ∧ ({ Config.default with cmdDepth := 65536 } : Config).wf = false ∧
    ({ Config.default with outDepth := 0 } : Config).wf = false ∧ ({ Config.default with outDepth := 65536 } : Config).wf = false ∧
    ({ Config.default with base := 4 } : Config).wf = false ∧ Config.default.wf = true := by decide

/-! Decoding, every constructor and every reason of refusal (V4: OP in bits 31:28, ARG in bits 27:0). -/

theorem test_decode_setf : decode 0b0001_0000_0000_0000_0000_0011_1110_1000#32 = .legal (.setf 1000) := by decide
theorem test_decode_tone : decode 0b0010_0000_0000_0001_0101_1000_1000_1000#32 = .legal (.tone 88200) := by decide
theorem test_decode_sil : decode 0b0011_1111_1111_1111_1111_1111_1111_1111#32 = .legal (.sil 268435455) := by decide
theorem test_decode_drain : decode 0b0100_0000_0000_0000_0000_0000_0000_0000#32 = .legal .drain := by decide
theorem test_decode_refuses : decode 0x48000000#32 = .illegal .drainArg ∧ decode 0x00000001#32 = .illegal .opZero ∧
    decode 0x50000000#32 = .illegal .opUnassigned ∧ decode 0xFFFFFFFF#32 = .illegal .opUnassigned := by decide
theorem test_encode : encode (.setf 11025) = 0x10002B11#32 ∧ encode (.tone 4) = 0x20000004#32 ∧
    encode (.sil 14700) = 0x3000396C#32 ∧ encode .drain = 0x40000000#32 := by decide
theorem test_table_word : decodeTableWord 32 0x2000AC44 = some (.tone 44100) ∧ decodeTableWord 32 0x40000001 = none := by decide

/-! The sine function (V1, V2). -/

theorem test_sine_small : sineSample 44100 1 = 5 ∧ sineSample 44100 22051 = -5 := by decide
theorem test_sine_tie : sineSample 44100 3675 = 16384 ∧ sineSample 44100 40425 = -16384 := by decide
theorem test_sine_peak : sineSample 44100 11025 = 32767 ∧ sineSample 44100 33075 = -32767 := by decide
theorem test_sine_near_tie_up : sineSample 44100 3324 = 14945 := by decide
theorem test_sine_near_tie_down : sineSample 44100 29475 = -28550 := by decide
theorem test_frame_bytes : streamBytes [toU16 (-32767), toU16 (-5)] = [0x01#8, 0x80#8, 0xFB#8, 0xFF#8] := by decide

/-! Commands, one step each (V5 to V9), through `step` as the host fetches a command. -/

theorem test_setf : (readReg .freq (after (State.reset.withFetchWord 32 0x100003E8))) = 0x000003E8#32 := by decide
theorem test_setf_status : (readReg .status (after (State.reset.withFetchWord 32 0x100003E8))) = 0x00000151#32 := by decide
theorem test_tone_zero : let t := after (State.reset.withFetchWord 32 0x20000000)
    t.segments = 1#32 ∧ t.engine = .ready ∧ t.remain = 0#28 := by decide
theorem test_tone_starts : let t := after ({ State.reset with acc := 5#24 }.withFetchWord 32 0x20000004)
    t.engine = .tone ∧ readReg .remain t = 4#32 ∧ readReg .phase t = 0#32 := by decide
theorem test_tone_sample : let t := after ((toning 22051 4 []).scheduled .engine)
    t.outFifo = [0#16] ∧ readReg .phase t = 22051#32 ∧ readReg .remain t = 3#32 := by decide
theorem test_tone_last_sample : let t := after ({ toning 11025 1 [] with acc := 33075#24 }.scheduled .engine)
    t.outFifo = [0x8001#16] ∧ t.engine = .ready ∧ t.segments = 1#32 ∧ t.acc = 0#24 := by decide
theorem test_sil_starts : let t := after ({ State.reset with acc := 22050#24 }.withFetchWord 32 0x30000001)
    t.engine = .sil ∧ readReg .phase t = 0#32 := by decide
theorem test_sil_sample : let t := after ((silent 1 [7#16]).scheduled .engine)
    t.outFifo = [7#16, 0#16] ∧ t.engine = .ready ∧ t.segments = 1#32 := by decide
theorem test_drain_request : readReg .status (after ((draining false []).scheduled .engine)) = 0x00000354#32 := by decide
theorem test_drain_done : let t := after ((draining true []).scheduled (.sink .drainAck))
    readReg .irqStatus t = 1#32 ∧ readReg .status t = 0x00000050#32 := by decide
theorem test_illegal : let t := after (State.reset.withFetchWord 32 0x40000001)
    readReg .errInfo t = 3#32 ∧ readReg .errCmd t = 0x40000001#32 ∧ readReg .irqStatus t = 2#32 ∧ t.engine = .off := by decide

/-! The host and the sink (V10 to V18). -/

theorem test_enable : let t := after (writing 0x0C 1#32 State.reset)
    readReg .ctrl t = 1#32 ∧ readReg .status t = 0x00000151#32 := by decide
theorem test_enable_no_device :
    let t := after ((State.reset.hostNext (mmioWrite State.reset.cfg 0x0C 1#32)).scheduled (.host false))
    readReg .errInfo t = 1#32 ∧ readReg .irqStatus t = 2#32 ∧ readReg .status t = 0x00000050#32 := by decide
theorem test_irq_enable_reads_back : readReg .irqEnable (after (writing 0x18 0xFFFFFFFF#32 State.reset)) = 3#32 := by decide
theorem test_irq_line : readReg .status (after (writing 0x18 1#32 { State.reset with irqDone := true })) = 0x00000450#32 := by
  decide
theorem test_reset_registers : (readReg .id State.reset, readReg .rate State.reset, readReg .format State.reset,
    readReg .status State.reset) = (0x42520007#32, 0x0000AC44#32, 0x7FFF0221#32, 0x00000050#32) := by decide
theorem test_register_offsets :
    [Reg.id, .rate, .format, .ctrl, .status, .irqStatus, .irqEnable, .errInfo, .errCmd, .cmd, .level, .freq, .samples,
      .segments, .phase, .remain].map Reg.offset =
      [0x00, 0x04, 0x08, 0x0C, 0x10, 0x14, 0x18, 0x1C, 0x20, 0x24, 0x28, 0x2C, 0x30, 0x34, 0x38, 0x3C] := by decide
theorem test_read_segments_at_its_offset :
    (after (({ State.reset with segments := 9#32 }.hostNext (.read 0x34 .word)).scheduled (.host true))).busLog =
      [.readData 9#32] := by decide
theorem test_misaligned : (after ((State.reset.hostNext (.read 2 .word)).scheduled (.host true))).busLog =
    [.busError 0#32] := by decide
theorem test_held_write : let s := writing 0x24 0x40000000#32 (small (ready [0x30000001#32]))
    (after s).cmdFifo = [0x30000001#32] ∧ (after s).hostQueue.length = 1 := by decide
theorem test_idle_after_reset : after State.reset = State.reset := by decide
theorem test_assemble : assembleLine Config.default ['S', 'I', 'L', ' ', '0', 'x', '1', '0', ';', 'p'] =
    .ok [mmioWrite Config.default 0x24 0x30000010#32] := by rfl
theorem test_assembler_refuses : parseLine ['D', 'R', 'A', 'I', 'N', ' ', '1'] = .error .operandCount := by rfl

/-! How a run ends (R182, R243, R245). -/

theorem test_abort_with_stale_done : let t := after (writing 0x0C 0#32 { ready [] with irqDone := true })
    t.runEnd = .aborted ∧ readReg .irqStatus t = 1#32 := by decide
theorem test_srst_ends_reset : (after (writing 0x0C 2#32 (ready []))).runEnd = .reset ∧
    (after (writing 0x0C 2#32 failed)).runEnd = .error .writeFailure 0#32 := by decide
theorem test_error_end_has_errcmd :
    (after ((ready [0x50000000#32]).scheduled .engine)).runEnd = .error .illegalCommand 0x50000000#32 := by decide
theorem test_stalled_frame_is_stuck : step (stalled (draining false [9#16])) = .fault .stuck ∧
    (after (draining false [9#16])).sinkLog = [9#16] := ⟨rfl, by decide⟩

/-! SEND's repeat count (R97) and its string (R99; W7 and P7 write it in quotes). -/

theorem test_send_empty_string : parseBits ['"', '"'] = some [] ∧ parseBits ['"', '0', '1', '"'] = some [false, true] := by decide
theorem test_send_count_range : (AsmLine.send 1 1 268435456 1 1 []).wellFormed = false ∧
    (AsmLine.send 1 1 268435455 1 1 []).wellFormed = true := by decide
theorem test_send_refuses_bad_quotes : parseBits [] = none ∧ parseBits ['"'] = none ∧ parseBits ['"', '0'] = none ∧
    parseBits ['0', '"', '1'] = none := by decide

/-! Witnesses: each statement's hypotheses are met, clause by clause, at the ends of their ranges. -/

theorem witness_EncodeDecodeRoundTrip : (0 : Nat) < 2 ^ 28 ∧ (Instr.tone 268435455).wellFormed = true ∧
    Instr.drain.wellFormed = true ∧ (2 : Nat) ^ 28 ≤ 268435456 := by decide
theorem witness_EncodeDecodeRoundTrip_assembler :
    parseLine ['S', 'I', 'L', ' ', '2', '6', '8', '4', '3', '5', '4', '5', '6'] = .ok (.command (.sil 268435456)) := by rfl
theorem witness_DecodingIsTotalAndUnique : opField 0x1FFFFFFF#32 = 1#4 ∧ opField 0x20000000#32 = 2#4 ∧
    opField 0x30000001#32 = 3#4 ∧ (opField 0x40000000#32 = 4#4 ∧ argField 0x40000000#32 = 0#28) ∧
    (opField 0x40000001#32 = 4#4 ∧ argField 0x40000001#32 ≠ 0#28) ∧ opField 0x00000000#32 = 0#4 := by decide
theorem witness_IllegalWordsFault : State.reset.cmdFifo.length < State.reset.cfg.cmdDepth ∧
    illegalWord 0x00000000#32 = true ∧ illegalWord 0x50000000#32 = true ∧ illegalWord 0x40000001#32 = true ∧
    (ready [0x50000000#32]).engine = .ready ∧ (ready [0x50000000#32]).cmdFifo = 0x50000000#32 :: [] := by decide
theorem witness_OpcodeMapDecides : decode 0x40000000#32 = .legal .drain ∧ decode 0x1FFFFFFF#32 = .legal (.setf 268435455) ∧
    decode 0x20000000#32 = .legal (.tone 0) ∧ decode 0x30000001#32 = .legal (.sil 1) := by decide
theorem witness_SineExactAtDefaultRate : (0 : Nat) < 44100 ∧ (44099 : Nat) < 44100 := by decide
theorem witness_SineExactAtEveryRate : (1 ≤ 1 ∧ (1 : Nat) < 2 ^ 24 ∧ 0 < 1) ∧
    (1 ≤ 16777215 ∧ (16777215 : Nat) < 2 ^ 24 ∧ (16777214 : Nat) < 16777215) := by decide
theorem witness_SineSymmetries : (1 ≤ 44100 ∧ (44100 : Nat) < 2 ^ 24 ∧ (22050 : Nat) ≤ 44100 / 2) ∧ (2 : Nat) ∣ 44100 ∧
    (4 : Nat) ∣ 44100 ∧ (2 : Nat) ∣ 2 ∧ (16777215 : Nat) < 2 ^ 24 := by decide
theorem witness_FrequencyAliases : (1 : Nat) ≤ 44100 ∧ 88200 % 44100 = 0 := by decide
theorem witness_operands : (0 : Nat) < 2 ^ 28 ∧ (268435455 : Nat) < 2 ^ 28 ∧ (268435455 : Nat) ≠ 0 := by decide
theorem witness_EmptySegmentCompletesAtDecode :
    (ready [0x20000000#32]).engine = .ready ∧ (ready [0x20000000#32]).cmdFifo = encode (.tone 0) :: [] ∧
    (ready [0x30000000#32]).cmdFifo = encode (.sil 0) :: [] := by decide
theorem witness_EngineDecodesTheHead : (ready []).engine = .ready ∧ (ready []).cmdFifo = [] ∧
    (ready [0x40000000#32]).cmdFifo = 0x40000000#32 :: [] ∧ decode 0x40000000#32 = .legal .drain ∧
    decode 0x00000000#32 = .illegal .opZero := by decide
theorem witness_StepRunsDecodedCommand : (ready [0x40000000#32]).schedule = [] ∧ (ready [0x40000000#32]).engine = .ready ∧
    (ready [0x40000000#32]).outFifo = [] ∧ decode 0x40000000#32 = .legal .drain := by decide
theorem witness_OffEngineTakesNoStep : State.reset.engine = .off ∧ State.reset.code = .none := by decide
theorem witness_ToneSampleStep : (toning 1000 1 []).cfg.wf = true ∧ (toning 1000 1 []).engine = .tone ∧
    0 < (toning 1000 1 []).remain.toNat ∧ (toning 1000 1 []).outFifo.length < (toning 1000 1 []).cfg.outDepth ∧
    ¬((small (toning 1000 1 [0#16, 0#16])).outFifo.length < (small (toning 1000 1 [0#16, 0#16])).cfg.outDepth) ∧
    (toning 1000 1 []).remain - 1#28 = 0#28 ∧ (toning 1000 2 []).remain - 1#28 ≠ 0#28 := by decide
theorem witness_SilSampleStep : (silent 1 []).engine = .sil ∧ 0 < (silent 1 []).remain.toNat ∧
    (silent 1 []).outFifo.length < (silent 1 []).cfg.outDepth ∧ ¬(0 < (silent 0 []).remain.toNat) ∧
    (silent 2 []).remain - 1#28 ≠ 0#28 := by decide
theorem witness_SilSampleStep_inv : (silent 1 []).Inv := by constructor <;> decide
theorem witness_ToneSegmentPushesItsSamples : let s := small (toning 11025 2 [])
    s.cfg.wf = true ∧ s.engine = .tone ∧ s.acc = 0#24 ∧ s.remain.toNat = 2 ∧ s.outFifo.length + 2 ≤ s.cfg.outDepth := by decide
theorem witness_SilSegmentPushesZeros : let s := small (silent 1 [5#16])
    s.engine = .sil ∧ s.remain.toNat = 1 ∧ s.outFifo.length + 1 ≤ s.cfg.outDepth := by decide

/-- A run that ends DONE: one frame accepted, a word pushed, the drain requested and acknowledged. -/
def lastMoves : State :=
  { draining false [9#16] with
    hostQueue := [mmioWrite State.reset.cfg 0x24 0x10000001#32, .waitOff]
    schedule := [.sink (.transfer true false), .host true, .engine, .sink .drainAck] }

theorem witness_DoneRunDeliversThePromisedFrames : lastMoves.Inv ∧ lastMoves.engine ≠ .off ∧ lastMoves.irqDone = false ∧
    lastMoves.hostQueue = ([0x10000001#32].map (mmioWrite lastMoves.cfg 0x24)) ++ [.waitOff] ∧
    (∀ m ∈ lastMoves.schedule, m.undisturbed = true ∨ m.isHost = true) ∧
    (lastMoves.schedule.filter Move.isHost).length ≤ [0x10000001#32].length ∧
    ∃ t, Host.Core.run Sys2Proof.core lastMoves.schedule.length lastMoves = .next t ∧ State.irqDone t = true :=
  ⟨by constructor <;> decide, by decide, by decide, rfl, by decide, by decide, _, rfl, rfl⟩

theorem witness_DrainRequestStep : (draining false []).engine = .drain ∧ (draining false []).dreq = false ∧
    (draining false []).outFifo = [] ∧ (draining false [1#16]).outFifo ≠ [] := by decide
theorem witness_DrainCompletionStep : (draining true []).engine = .drain ∧ (draining true []).dreq = true := by decide
theorem witness_StaleAcknowledgementIgnored :
    ¬((draining false []).engine = .drain ∧ (draining false []).dreq = true) ∧
    ¬(State.reset.engine = .drain ∧ State.reset.dreq = true) := by decide
theorem witness_CtrlWriteOrder : (3#32).getLsbD 1 = true ∧ ((1#32).getLsbD 1 = false ∧ (1#32).getLsbD 0 = true) ∧
    ((0xFFFFFFFC#32).getLsbD 1 = false ∧ (0xFFFFFFFC#32).getLsbD 0 = false) := by decide
theorem witness_EnableOutcomes : (1#32).getLsbD 1 = false ∧ (0xFFFFFFFD#32).getLsbD 1 = false ∧ (1#32).getLsbD 0 = true ∧
    (0xFFFFFFFD#32).getLsbD 0 = true ∧ (ready []).engine ≠ .off ∧ (failed.engine = .off ∧ failed.code ≠ .none) ∧
    (State.reset.engine = .off ∧ State.reset.code = .none) := by decide
theorem witness_AbortEndsRun : (0#32).getLsbD 0 = false ∧ (0#32).getLsbD 1 = false ∧ (ready []).engine ≠ .off ∧
    State.reset.engine = .off := by decide
theorem witness_SoftResetGivesResetState : (2#32).getLsbD 1 = true ∧ (3#32).getLsbD 1 = true := by decide
theorem witness_CmdWriteCases : State.reset.cmdFifo.length < State.reset.cfg.cmdDepth ∧
    (let s := small { State.reset with cmdFifo := [0#32] }; ¬ s.cmdFifo.length < s.cfg.cmdDepth ∧ s.engine = .off) ∧
    (let s := small (ready [0#32]); ¬ s.cmdFifo.length < s.cfg.cmdDepth ∧ s.engine ≠ .off) := by decide
theorem witness_ReadReturnsRegister : Reg.id.offset = 0x00 ∧ Reg.cmd.offset = 0x24 ∧ Reg.remain.offset = 0x3C := by decide
theorem witness_ReadOnlyWritesIgnored : Reg.id ≠ .ctrl ∧ Reg.id ≠ .irqStatus ∧ Reg.id ≠ .irqEnable ∧ Reg.id ≠ .cmd ∧
    Reg.remain ≠ .cmd ∧ State.reset.cfg.wf = true := by decide
theorem witness_UndefinedAccessesAreBusErrors : (63 : Nat) < 64 ∧ AccessSize.byte ≠ .word ∧ 63 % 4 ≠ 0 ∧
    (let l : Lanes := { fullLanes 0#32 with b3 := none }; l.b3 = none) := by decide
theorem witness_OutsideWindowNotDecoded : let c := (small State.reset).cfg
    63 < c.base ∧ c.base + 64 ≤ 128 := by decide
theorem witness_ErrorLatchHeldUntilCleared_inv : failed.Inv ∧ (writing 0x14 2#32 failed).Inv ∧ failed.code ≠ .none :=
  ⟨by constructor <;> decide, by constructor <;> decide, by decide⟩
theorem witness_ErrorLatchHeldUntilCleared : (1#32).getLsbD 1 = false ∧ (1#32).getLsbD 0 = true ∧
    Move.reset.single = true ∧ completes (failed.scheduled .engine) = true ∧
    (after (failed.scheduled .engine)).code = failed.code ∧ completes (writing 0x14 2#32 failed) = true ∧
    (after (writing 0x14 2#32 failed)).code = .none ∧ (after (writing 0x0C 2#32 failed)).code = .none := by decide
theorem witness_RegisterReadValues : State.reset.Inv := by constructor <;> decide
theorem witness_AcceptedFrame : (draining false [1#16]).engine ≠ .off ∧ (draining false [1#16]).outFifo = 1#16 :: [] ∧
    (let s := small (silent 1 [0#16, 0#16]); s.engine = .sil ∧ s.remain ≠ 0#28 ∧ s.outFifo.length = s.cfg.outDepth) := by decide
theorem witness_RejectedFrame : (draining false [1#16]).engine ≠ .off ∧ (draining false [1#16]).outFifo ≠ [] := by decide
theorem witness_StallChangesNothing : State.reset.engine = .off ∧ (ready []).outFifo = [] := by decide
theorem witness_FrameBytesLowFirst : (-32768 : Int) ≤ -32768 ∧ (32767 : Int) ≤ 32767 := by decide
theorem witness_ClockPerformsEventsInOrder : (toning 1 1 [0#16]).engine ≠ .off ∧ (toning 1 1 [0#16]).outFifo ≠ [] ∧
    (draining true []).engine = .drain ∧ (draining true []).dreq = true := by decide
theorem witness_StuckExactlyWhenNoAgentCanMove :
    step (ready []) = .fault .stuck ∧ (ready []).Inv ∧ (ready []).sinkStalled = false :=
  ⟨rfl, by constructor <;> decide, rfl⟩

/-- A state of the smallest build in which the Sink stalls for ever: CmdFifo is full, and so is OutFifo. -/
def jammed : State := small (stalled { silent 1 [1#16, 2#16] with cmdFifo := [0#32] })

theorem witness_StalledSinkLeavesRunUnfinished : jammed.Inv ∧ jammed.schedule = [] ∧ jammed.sinkStalled = true ∧
    jammed.engine = .sil ∧ jammed.outFifo.length = jammed.cfg.outDepth ∧ jammed.hostQueue = [] ∧
    jammed.cmdFifo.length = jammed.cfg.cmdDepth := ⟨by constructor <;> decide, by decide, by decide, by decide, by decide,
  by decide, by decide⟩
theorem witness_StalledSinkLeavesRunUnfinished_drain : (stalled (draining false [1#16])).Inv ∧
    (stalled (draining true [])).Inv ∧ (stalled (draining true [])).engine = .drain ∧
    completes (stalled (ready [0x40000000#32])) = true :=
  ⟨by constructor <;> decide, by constructor <;> decide, rfl, by decide⟩
theorem witness_RefusalsOnlyWhereTheSpecRefuses :
    step (State.reset.scheduled (.otherHost (.read 0 .word))) = .refused .secondHost ∧
    step (State.reset.scheduled (.sink .halfFrame)) = .refused .halfFrame ∧
    step (State.reset.scheduled (.clock { reset := false, host := false, avail := true, sink := some .halfFrame, engine := true })) =
      .refused .halfFrame := ⟨rfl, rfl, rfl⟩

/-- A run's last step, for each of the ways it ends. -/
theorem witness_RunEndsOnlyInFourWays :
    (∃ t, step ((draining true []).scheduled (.sink .drainAck)) = .next t ∧ t.engine = .off) ∧
    (∃ t, step ((ready [0#32]).scheduled .engine) = .next t ∧ t.engine = .off) ∧
    (∃ t, step ((draining false [1#16]).scheduled (.sink (.transfer true true))) = .next t ∧ t.engine = .off) ∧
    (∃ t, step (writing 0x0C 0#32 (ready [])) = .next t ∧ t.engine = .off) ∧
    (∃ t, step ((ready []).scheduled .reset) = .next t ∧ t.engine = .off) :=
  ⟨⟨_, rfl, rfl⟩, ⟨_, rfl, rfl⟩, ⟨_, rfl, rfl⟩, ⟨_, rfl, rfl⟩, ⟨_, rfl, rfl⟩⟩
theorem witness_RunEndsOnlyInFourWays_inv : (draining true []).Inv ∧ (ready [0#32]).Inv ∧ (draining false [1#16]).Inv ∧
    ((ready []).hostNext (mmioWrite (ready []).cfg 0x0C 0#32)).Inv :=
  ⟨by constructor <;> decide, by constructor <;> decide, by constructor <;> decide, by constructor <;> decide⟩
theorem witness_FramesStayInOrder : (∃ t, step ((toning 1 2 [1#16]).scheduled .engine) = .next t ∧ t.engine ≠ .off) ∧
    (∃ t, step ((toning 1 2 [1#16]).scheduled (.sink (.transfer true false))) = .next t ∧ t.engine ≠ .off) :=
  ⟨⟨_, rfl, by decide⟩, ⟨_, rfl, by decide⟩⟩
theorem witness_SamplesCountAcceptedFrames : (Move.sink (.transfer true false)).single = true ∧ (Move.host true).single = true ∧
    completes ((toning 1 2 [1#16]).scheduled (.sink (.transfer true false))) = true ∧
    completes (writing 0x0C 1#32 { State.reset with samples := 7#32 }) = true := by decide
theorem witness_FreqChangesOnlyBySetf :
    (∃ t, step ((ready [0x10000001#32]).scheduled .engine) = .next t ∧ t.freq ≠ (ready [0x10000001#32]).freq) ∧
    (∃ t, step ((toning 1 1 []).scheduled .reset) = .next t ∧ t.freq ≠ (toning 1 1 []).freq) :=
  ⟨⟨_, rfl, by decide⟩, ⟨_, rfl, by decide⟩⟩
theorem witness_CommandsStayInOrder : Move.engine.single = true ∧ completes ((ready [0x10000001#32]).scheduled .engine) = true ∧
    completes (writing 0x24 5#32 State.reset) = true ∧ completes ((ready [0#32]).scheduled .engine) = true := by decide
theorem witness_StepKeepsInvariant : (toning 1 2 [1#16]).Inv ∧ ∃ t, step (toning 1 2 [1#16]) = .next t :=
  ⟨by constructor <;> decide, _, rfl⟩
theorem witness_ParametersNeverChange : ∃ t, step (ready [0x40000000#32]) = .next t := ⟨_, rfl⟩

end Sys2Proof.Tests
end

section
/-! PROOFS. Reset (spec/10_state.md R48): what the flags, the ports and the registers read in the state after it, and the two
steps that lead there. -/

namespace Sys2Proof.Machine

/-! The flags and ports after reset. Only the two FULL flags need the depths of R7 and R8 to be positive. -/

@[simp] theorem snkOpen_resetBlock (s : State) : snkOpen (resetBlock s) = false := rfl
@[simp] theorem snkValid_resetBlock (s : State) : snkValid (resetBlock s) = false := rfl
@[simp] theorem snkFrame_resetBlock (s : State) : snkFrame (resetBlock s) = 0#16 := rfl
@[simp] theorem snkDrainReq_resetBlock (s : State) : snkDrainReq (resetBlock s) = false := rfl
@[simp] theorem irqLine_resetBlock (s : State) : irqLine (resetBlock s) = false := rfl
@[simp] theorem cmdEmpty_resetBlock (s : State) : cmdEmpty (resetBlock s) = true := rfl
@[simp] theorem outEmpty_resetBlock (s : State) : outEmpty (resetBlock s) = true := rfl

/-- Neither FIFO of a build in range is without entries (R7, R8). -/
theorem depths_pos_of_wf {c : Config} (h : c.wf = true) : 0 < c.cmdDepth ∧ 0 < c.outDepth := by
  obtain ⟨-, -, hcmd, -, hout, -⟩ := of_decide_eq_true h
  exact ⟨hcmd, hout⟩

theorem cmdFull_resetBlock {s : State} (h : s.cfg.wf = true) : cmdFull (resetBlock s) = false := by
  have hpos := (depths_pos_of_wf h).1
  simpa [cmdFull] using hpos.ne

theorem outFull_resetBlock {s : State} (h : s.cfg.wf = true) : outFull (resetBlock s) = false := by
  have hpos := (depths_pos_of_wf h).2
  simpa [outFull] using hpos.ne

/-! The registers after reset. -/

/-- STATUS shows the two empty FIFOs and nothing else (R23, R28). -/
theorem readStatus_resetBlock {s : State} (h : s.cfg.wf = true) : readStatus (resetBlock s) = 0x00000050#32 := by
  simp [readStatus, cmdFull_resetBlock h, outFull_resetBlock h, flagBit, EngineState.bits]

/-! The two steps that reset the block. -/

theorem step_reset (s : State) : step (s.scheduled .reset) = .next (resetBlock s) := rfl

/-- A write of SRST = 1 to CTRL resets the block, whatever the other bits and snk_avail are (R146, R149). -/
theorem step_srst (s : State) (avail : Bool) {v : Word} (h : v.getLsbD 1 = true) :
    step ((s.hostNext (mmioWrite s.cfg 0x0C v)).scheduled (.host avail)) =
      .next (answer .writeDone (resetBlock s)) := by
  have hw : ∀ u, writeReg avail .ctrl v u = some (resetBlock u) := fun u => by simp [writeReg, writeCtrl, h]
  rw [step_hostWrite s avail .ctrl v 0x0C rfl, hw]
  rfl

/-- Settles O42: both steps lead to `resetBlock s`, whose fields are R48's. Every register but STATUS then reads its value
whatever the build is; STATUS needs the depths of the build to be in range. -/
theorem resetStateAndRegisters : Obligations.ResetStateAndRegisters := by
  intro s
  refine ⟨resetBlock s, step_reset s, fun avail _ hv => step_srst s avail hv, rfl, rfl, rfl, rfl, rfl, rfl, rfl, rfl, rfl, rfl,
    rfl, rfl, rfl, rfl, rfl, rfl, fun r hwf => ?_, snkOpen_resetBlock s, snkValid_resetBlock s, snkFrame_resetBlock s,
    snkDrainReq_resetBlock s, irqLine_resetBlock s⟩
  cases r
  case status => exact readStatus_resetBlock hwf
  all_goals simp [readReg, readCtrl, readLevel, flagBit, ErrorCode.bits]

end Sys2Proof.Machine
end

section
/-! PROOFS. The byte lanes of the host bus (spec/20_memory.md R63). -/

namespace Sys2Proof.Machine

/-- Bit i of lane k is bit 8k+i of the word, on any lane (R63). -/
theorem getLsbD_laneOf (v : Word) (k : Nat) {i : Nat} (hi : i < 8) :
    (laneOf v k).getLsbD i = v.getLsbD (8 * k + i) := by
  simp [laneOf, hi]

/-- Settles O47: `getLsbD_laneOf` for each bit of a lane, and the lanes of the second clause are `fullLanes v`, which carry
`v`. -/
theorem busLanesLittleEndian : Obligations.BusLanesLittleEndian := by
  intro v
  exact ⟨fun k _ _ hi => getLsbD_laneOf v k hi, wordOfLanes_fullLanes v⟩

end Sys2Proof.Machine
end

section
/-! PROOFS. The opcode map and the illegal words (spec/30_encoding.md R91 to R94): a word is its opcode above its operand,
so a row's mask reads the opcode, and every word is of exactly one command or one clause of R94. -/

namespace Sys2Proof

/-! The fields under the masks of R93. -/

/-- A word is OP in bits 31:28 above ARG in bits 27:0 (R91). -/
theorem opField_append_argField (w : Word) : opField w ++ argField w = w :=
  (BitVec.extractLsb'_append_extractLsb'_eq_extractLsb' rfl).trans BitVec.extractLsb'_eq_self

theorem and_opMask (w : Word) : w &&& 0xF0000000#32 = opField w ++ 0#28 := by
  calc w &&& 0xF0000000#32 = (opField w ++ argField w) &&& (BitVec.allOnes 4 ++ 0#28) := by
        rw [opField_append_argField]; rfl
    _ = opField w ++ 0#28 := by rw [BitVec.and_append, BitVec.and_allOnes, BitVec.and_zero]

theorem and_argMask (w : Word) : w &&& 0x0FFFFFFF#32 = 0#4 ++ argField w := by
  calc w &&& 0x0FFFFFFF#32 = (opField w ++ argField w) &&& (0#4 ++ BitVec.allOnes 28) := by
        rw [opField_append_argField]; rfl
    _ = 0#4 ++ argField w := by rw [BitVec.and_append, BitVec.and_allOnes, BitVec.and_zero]

/-- The low 28 bits of a word are its operand (R92). -/
theorem and_argMask_toNat (w : Word) : (w &&& 0x0FFFFFFF#32).toNat = (argField w).toNat := by
  rw [and_argMask, BitVec.toNat_append]
  simp

/-- A word meets a pattern under the mask 0xF0000000 exactly when the pattern's top nibble is its opcode (R93). -/
theorem and_opMask_eq_iff (w : Word) (op : BitVec 4) : w &&& 0xF0000000#32 = op ++ 0#28 ↔ opField w = op := by
  rw [and_opMask, BitVec.append_left_inj]

/-- DRAIN's row fixes all 32 bits (R93). -/
theorem eq_drainWord_iff (w : Word) : w = 0x40000000#32 ↔ opField w = 4#4 ∧ argField w = 0#28 := by
  constructor
  · rintro rfl
    decide
  · rintro ⟨hop, harg⟩
    rw [← opField_append_argField w, hop, harg]
    rfl

/-! Which words are which command, by their fields. -/

theorem decode_eq_setf_iff {w : Word} {f : Nat} :
    decode w = .legal (.setf f) ↔ opField w = 1#4 ∧ f = (argField w).toNat :=
  ⟨fun h => by simpa using decode_legal_cases h, by rintro ⟨hop, rfl⟩; exact decode_of_op_one hop⟩

theorem decode_eq_tone_iff {w : Word} {n : Nat} :
    decode w = .legal (.tone n) ↔ opField w = 2#4 ∧ n = (argField w).toNat :=
  ⟨fun h => by simpa using decode_legal_cases h, by rintro ⟨hop, rfl⟩; exact decode_of_op_two hop⟩

theorem decode_eq_sil_iff {w : Word} {n : Nat} :
    decode w = .legal (.sil n) ↔ opField w = 3#4 ∧ n = (argField w).toNat :=
  ⟨fun h => by simpa using decode_legal_cases h, by rintro ⟨hop, rfl⟩; exact decode_of_op_three hop⟩

theorem decode_eq_drain_iff {w : Word} : decode w = .legal .drain ↔ opField w = 4#4 ∧ argField w = 0#28 :=
  ⟨fun h => by simpa using decode_legal_cases h, fun ⟨hop, harg⟩ => decode_of_op_four hop harg⟩

/-! The rows of the opcode map (R93). -/

/-- A row whose mask is 0xF0000000 covers the words of one opcode. -/
theorem covers_opMask (name : String) (op : BitVec 4) (w : Word) :
    OpcodeRow.covers ⟨name, op ++ 0#28, 0xF0000000#32⟩ w = decide (opField w = op) :=
  (beq_eq_decide _ _).trans (decide_eq_decide.mpr (and_opMask_eq_iff w op))

/-- DRAIN's row covers one word. -/
theorem covers_drainRow (name : String) (w : Word) :
    OpcodeRow.covers ⟨name, 0x40000000#32, 0xFFFFFFFF#32⟩ w = decide (opField w = 4#4 ∧ argField w = 0#28) := by
  have hmask : w &&& 0xFFFFFFFF#32 = w := BitVec.and_allOnes
  rw [OpcodeRow.covers, beq_eq_decide, hmask]
  exact decide_eq_decide.mpr (eq_drainWord_iff w)

/-- One row covers a command's word, the row of its mnemonic. -/
theorem opcodeMap_covers_unique {w : Word} {i : Instr} (h : decode w = .legal i) :
    (opcodeMap.filter (fun r => r.covers w)).map OpcodeRow.mnemonic = [i.mnemonic] := by
  have hsetf : OpcodeRow.covers ⟨"SETF", 0x10000000#32, 0xF0000000#32⟩ w = _ := covers_opMask _ 1#4 w
  have htone : OpcodeRow.covers ⟨"TONE", 0x20000000#32, 0xF0000000#32⟩ w = _ := covers_opMask _ 2#4 w
  have hsil : OpcodeRow.covers ⟨"SIL", 0x30000000#32, 0xF0000000#32⟩ w = _ := covers_opMask _ 3#4 w
  have hdrain := covers_drainRow "DRAIN" w
  obtain ⟨hop, rfl⟩ | ⟨hop, rfl⟩ | ⟨hop, rfl⟩ | ⟨hop, harg, rfl⟩ := decode_legal_cases h
  case inr.inr.inr => simp [opcodeMap, hsetf, htone, hsil, hdrain, hop, harg, Instr.mnemonic]
  all_goals simp [opcodeMap, hsetf, htone, hsil, hdrain, hop, Instr.mnemonic]

/-- Settles O3: each command is its opcode (`decode_eq_setf_iff` and its like), which the masks read (`and_opMask_eq_iff`,
`eq_drainWord_iff`); the last clause is `opcodeMap_covers_unique`. -/
theorem opcodeMapDecides : Obligations.OpcodeMapDecides := by
  intro w
  refine ⟨?_, ?_, ?_, ?_, ?_, fun _ h => opcodeMap_covers_unique h⟩
  · simpa [decode_eq_setf_iff] using (and_opMask_eq_iff w 1#4).symm
  · simpa [decode_eq_tone_iff] using (and_opMask_eq_iff w 2#4).symm
  · simpa [decode_eq_sil_iff] using (and_opMask_eq_iff w 3#4).symm
  · rw [decode_eq_drain_iff, eq_drainWord_iff]
  · intro n h
    rw [and_argMask_toNat]
    obtain h | h | h := h
    · exact (decode_eq_setf_iff.mp h).2
    · exact (decode_eq_tone_iff.mp h).2
    · exact (decode_eq_sil_iff.mp h).2

/-! The illegal words (R94), clause by clause. -/

theorem decode_of_op_zero {w : Word} (h : opField w = 0#4) : decode w = .illegal .opZero := by
  simp [decode, h]

theorem decode_of_op_unassigned {w : Word} (h : 5 ≤ (opField w).toNat) : decode w = .illegal .opUnassigned := by
  have hne : ∀ k : BitVec 4, k.toNat < 5 → opField w ≠ k := by
    rintro k hk rfl
    omega
  simp [decode, hne]

theorem decode_of_op_four_arg {w : Word} (h : opField w = 4#4) (ha : argField w ≠ 0#28) :
    decode w = .illegal .drainArg := by
  have harg : (argField w).toNat ≠ 0 := fun h0 => ha (BitVec.eq_of_toNat_eq h0)
  simp [decode, h, harg]

theorem opcode_cases (op : BitVec 4) :
    op = 0#4 ∨ op = 1#4 ∨ op = 2#4 ∨ op = 3#4 ∨ op = 4#4 ∨ 5 ≤ op.toNat := by
  bv_omega

/-- A word is illegal exactly when it is of a clause of R94: the decoder's answer is known for each opcode. -/
theorem illegalWord_iff_clause {w : Word} :
    illegalWord w = true ↔ opField w = 0#4 ∨ 5 ≤ (opField w).toNat ∨ (opField w = 4#4 ∧ argField w ≠ 0#28) := by
  rw [illegalWord_iff]
  constructor
  · rintro ⟨why, h⟩
    obtain hop | hop | hop | hop | hop | hop := opcode_cases (opField w)
    · exact .inl hop
    · cases (decode_of_op_one hop).symm.trans h
    · cases (decode_of_op_two hop).symm.trans h
    · cases (decode_of_op_three hop).symm.trans h
    · refine .inr (.inr ⟨hop, fun harg => ?_⟩)
      cases (decode_of_op_four hop harg).symm.trans h
    · exact .inr (.inl hop)
  · rintro (hop | hop | ⟨hop, harg⟩)
    · exact ⟨_, decode_of_op_zero hop⟩
    · exact ⟨_, decode_of_op_unassigned hop⟩
    · exact ⟨_, decode_of_op_four_arg hop harg⟩

end Sys2Proof

namespace Sys2Proof.Machine

/-- A write to CMD with room in CmdFifo pushes the word, whatever it is (R152). -/
theorem writeCmd_of_room (w : Word) {s : State} (h : s.cmdFifo.length < s.cfg.cmdDepth) :
    writeCmd w s = some (pushCmd w s) := by
  simp [writeCmd, cmdRoom, h]

theorem runWord_of_illegal {w : Word} (h : illegalWord w = true) (s : State) :
    runWord w s = .next (fatal .illegalCommand w s) := by
  obtain ⟨why, hw⟩ := illegalWord_iff.mp h
  simp [runWord, hw, illegalCommand]

/-- In READY the engine's step runs the word at the head of CmdFifo, popped (R140). -/
theorem engineStep_of_head {s : State} {w : Word} {rest : List Word} (he : s.engine = .ready)
    (hq : s.cmdFifo = w :: rest) : engineStep s = runWord w { s with cmdFifo := rest } := by
  simp [engineStep, decodeStep, he, hq]

/-- Settles O4: the clauses are `illegalWord_iff_clause`, a push with room is `writeCmd_of_room`, and the decode step of an
illegal word is the fatal procedure with code 3 and that word (R145), whose fields are R195's. -/
theorem illegalWordsFault : Obligations.IllegalWordsFault := by
  refine ⟨fun _ => illegalWord_iff_clause, fun w _ hroom => writeCmd_of_room w hroom, fun w rest s hw he hq => ?_⟩
  have hstep : step (s.scheduled .engine) = .next (fatal .illegalCommand w { s with cmdFifo := rest }) := by
    rw [step_scheduled, runMove, engineStep_of_head he hq, runWord_of_illegal hw]
  exact ⟨_, hstep, rfl, rfl, rfl, rfl, rfl, rfl⟩

end Sys2Proof.Machine
end

section
/-! PROOFS. The sample steps of a segment (spec/40_synthesis.md R119 to R121). -/

namespace Sys2Proof.Machine

theorem step_engine_of_tone {s : State} (he : s.engine = .tone) :
    step (s.scheduled .engine) = .next (if sampleEnabled s then toneSample s else s) := by
  rw [step_scheduled, runMove, engineStep, he]

theorem step_engine_of_sil {s : State} (he : s.engine = .sil) :
    step (s.scheduled .engine) = .next (if sampleEnabled s then silSample s else s) := by
  rw [step_scheduled, runMove, engineStep, he]

/-- After a sample STATE and SEGMENTS follow the new REM: the segment completes at 0 and goes on otherwise (R121). -/
theorem countSample_completes (s : State) :
    ((countSample s).remain = 0#28 →
      (countSample s).segments = s.segments + 1#32 ∧ (countSample s).engine = .ready) ∧
    ((countSample s).remain ≠ 0#28 → (countSample s).segments = s.segments ∧ (countSample s).engine = s.engine) := by
  rw [countSample_eq]
  exact ⟨fun h => ⟨if_pos h, if_pos h⟩, fun h => ⟨if_neg h, if_neg h⟩⟩

theorem countSample_remain {s : State} (h : 0 < s.remain.toNat) :
    (countSample s).remain.toNat + 1 = s.remain.toNat := by
  rw [countSample_eq]
  exact remain_pred h

/-- Settles O19: where it is enabled, the step is `toneSample`, a push and a phase advance before `countSample`. -/
theorem toneSampleStep : Obligations.ToneSampleStep := by
  intro s hwf he
  rw [step_engine_of_tone he, ← sampleEnabled_iff]
  refine ⟨fun hen => ⟨toneSample s, by rw [if_pos hen], ?_, ?_, countSample_remain (sampleEnabled_iff.1 hen).1,
    (countSample_completes _).1, fun h => ?_, ?_⟩, fun hen => by rw [if_neg hen]⟩
  · rw [toneSample, countSample_eq]
    rfl
  · rw [← advancePhase_toNat hwf, toneSample, countSample_eq]
    rfl
  · rw [← he]
    exact (countSample_completes _).2 h
  · rw [toneSample, countSample_eq]
    rfl

/-- Settles O20: where it is enabled, the step is `silSample`, the push of a zero before `countSample`. -/
theorem silSampleStep : Obligations.SilSampleStep := by
  intro s he
  rw [step_engine_of_sil he, ← sampleEnabled_iff]
  refine ⟨fun hen => ⟨silSample s, by rw [if_pos hen], ?_, countSample_remain (sampleEnabled_iff.1 hen).1, fun hinv => ?_,
    (countSample_completes _).1, fun h => ?_, ?_⟩, fun hen => by rw [if_neg hen]⟩
  · rw [silSample, countSample_eq]
    rfl
  · rw [← hinv.silPhase he, silSample, countSample_eq]
    rfl
  · rw [← he]
    exact (countSample_completes _).2 h
  · rw [silSample, countSample_eq]
    rfl

end Sys2Proof.Machine
end

section
/-! PROOFS. The computed sine against the real one (spec/40_synthesis.md R110): the Taylor polynomial at the model's pi
differs from the real sine by far less than the margin that rounding leaves. Levels are in units of 1/65534, in which the
points where round_away changes its value are the odd integers. -/

namespace Sys2Proof.Machine

/-! The Taylor polynomial of sin. -/

/-- Term j of the sine series, without its sign. -/
noncomputable def taylorTerm (x : ℝ) (j : ℕ) : ℝ := x ^ (2 * j + 1) / (2 * j + 1).factorial

theorem taylorTerm_antitone {x : ℝ} (h0 : 0 ≤ x) (h6 : x ^ 2 ≤ 6) : Antitone (taylorTerm x) := by
  refine antitone_nat_of_succ_le fun j => ?_
  have hfac : ((2 * (j + 1) + 1).factorial : ℝ) = (2 * j + 3) * (2 * j + 2) * (2 * j + 1).factorial := by
    rw [show 2 * (j + 1) + 1 = 2 * j + 1 + 1 + 1 by ring, Nat.factorial_succ, Nat.factorial_succ]
    push_cast
    ring
  have hsq : x ^ 2 ≤ (2 * j + 3) * (2 * j + 2) := by nlinarith [(Nat.cast_nonneg j : (0 : ℝ) ≤ j)]
  have hpos : (0 : ℝ) < (2 * j + 1).factorial := by positivity
  rw [taylorTerm, taylorTerm, hfac, div_le_div_iff₀ (by positivity) hpos]
  calc x ^ (2 * (j + 1) + 1) * (2 * j + 1).factorial = x ^ (2 * j + 1) * (2 * j + 1).factorial * x ^ 2 := by ring
    _ ≤ x ^ (2 * j + 1) * (2 * j + 1).factorial * ((2 * j + 3) * (2 * j + 2)) := by gcongr
    _ = x ^ (2 * j + 1) * ((2 * j + 3) * (2 * j + 2) * (2 * j + 1).factorial) := by ring

/-- The series alternates and its terms decrease, so a cut leaves at most the first term left out. -/
theorem abs_taylor_sub_sin_le {x : ℝ} (h0 : 0 ≤ x) (h6 : x ^ 2 ≤ 6) (n : ℕ) :
    |∑ j ∈ Finset.range (2 * n + 1), (-1) ^ j * taylorTerm x j - Real.sin x| ≤ taylorTerm x (2 * n + 1) := by
  have hlim : Filter.Tendsto (fun n => ∑ j ∈ Finset.range n, (-1) ^ j * taylorTerm x j) Filter.atTop
      (nhds (Real.sin x)) := by
    simpa only [taylorTerm, mul_div_assoc] using (Real.hasSum_sin x).tendsto_sum_nat
  have hupper := (taylorTerm_antitone h0 h6).tendsto_le_alternating_series hlim n
  have hlower := (taylorTerm_antitone h0 h6).alternating_series_le_tendsto hlim (n + 1)
  rw [show 2 * (n + 1) = 2 * n + 1 + 1 by ring, Finset.sum_range_succ, Odd.neg_one_pow ⟨n, rfl⟩] at hlower
  rw [abs_of_nonneg (by linarith)]
  linarith

/-! The model's series is that polynomial. -/

/-- One step of the series: term k around the terms after it. -/
theorem sineSeries_succ (zn zd : ℤ) (terms k : ℕ) :
    sineSeries zn zd (terms + 1) k =
      (zd * (2 * k * (2 * k + 1)) * (sineSeries zn zd terms (k + 1)).2 - zn * (sineSeries zn zd terms (k + 1)).1,
        zd * (2 * k * (2 * k + 1)) * (sineSeries zn zd terms (k + 1)).2) := rfl

theorem sineSeries_denominator_pos {zn zd : ℤ} (hzd : 0 < zd) (terms k : ℕ) :
    0 < (sineSeries zn zd terms (k + 1)).2 := by
  induction terms generalizing k with
  | zero => exact one_pos
  | succ terms ih =>
    rw [sineSeries_succ]
    have := ih (k + 1)
    positivity

/-- The value of the series: term j after x is divided by the product of the factors from 2k + 2 on. -/
theorem sineSeries_value {zn zd : ℤ} (hzd : 0 < zd) (terms k : ℕ) :
    ((sineSeries zn zd terms (k + 1)).1 : ℝ) / (sineSeries zn zd terms (k + 1)).2 =
      ∑ j ∈ Finset.range (terms + 1),
        (-1) ^ j * ((zn : ℝ) / zd) ^ j * ((2 * k + 1).factorial / (2 * (k + j) + 1).factorial) := by
  induction terms generalizing k with
  | zero =>
    have hpos : ((2 * k + 1).factorial : ℝ) ≠ 0 := by positivity
    simp [sineSeries, hpos]
  | succ terms ih =>
    have hd : ((sineSeries zn zd terms (k + 1 + 1)).2 : ℝ) ≠ 0 :=
      mod_cast (sineSeries_denominator_pos hzd terms (k + 1)).ne'
    have hz : (zd : ℝ) ≠ 0 := mod_cast hzd.ne'
    have hfac : ((2 * (k + 1) + 1).factorial : ℝ) = (2 * (k + 1) + 1) * (2 * (k + 1)) * (2 * k + 1).factorial := by
      rw [show 2 * (k + 1) + 1 = 2 * k + 1 + 1 + 1 by ring, Nat.factorial_succ, Nat.factorial_succ]
      push_cast
      ring
    have hpos : ((2 * k + 1).factorial : ℝ) ≠ 0 := by positivity
    have hstep : ((sineSeries zn zd (terms + 1) (k + 1)).1 : ℝ) / (sineSeries zn zd (terms + 1) (k + 1)).2 =
        1 - (zn / zd) / ((2 * (k + 1) + 1) * (2 * (k + 1))) *
          ((sineSeries zn zd terms (k + 1 + 1)).1 / (sineSeries zn zd terms (k + 1 + 1)).2) := by
      rw [sineSeries_succ]
      push_cast
      have hk : (k : ℝ) + 1 ≠ 0 := by positivity
      have hk' : 2 * ((k : ℝ) + 1) + 1 ≠ 0 := by positivity
      field_simp
    rw [hstep, ih (k + 1), Finset.sum_range_succ' _ (terms + 1), Finset.mul_sum, sub_eq_add_neg, ← Finset.sum_neg_distrib, add_comm]
    generalize (zn : ℝ) / zd = z
    congr 1
    · refine Finset.sum_congr rfl fun j _ => ?_
      rw [hfac, show k + (j + 1) = k + 1 + j by ring]
      have hk : (k : ℝ) + 1 ≠ 0 := by positivity
      have hk' : 2 * ((k : ℝ) + 1) + 1 ≠ 0 := by positivity
      field_simp
      ring
    · simp [hpos]

/-- The series times its argument a / b is the polynomial at that argument. -/
theorem mul_sineSeries_value {a b : ℤ} (hb : 0 < b) (terms : ℕ) :
    ((a * (sineSeries (a * a) (b * b) terms 1).1 : ℤ) : ℝ) / (b * (sineSeries (a * a) (b * b) terms 1).2 : ℤ) =
      ∑ j ∈ Finset.range (terms + 1), (-1) ^ j * taylorTerm (a / b) j := by
  have hvalue := sineSeries_value (zn := a * a) (mul_pos hb hb) terms 0
  push_cast at hvalue ⊢
  rw [mul_div_mul_comm, hvalue, mul_div_mul_comm, Finset.mul_sum]
  refine Finset.sum_congr rfl fun j _ => ?_
  rw [taylorTerm, pow_succ (_ / _), pow_mul, pow_two]
  simp
  ring

/-! The two levels of an angle of u / rate quarter turns. -/

/-- The exact level of R110. -/
noncomputable def exactLevel (rate u : ℕ) : ℝ := 65534 * Real.sin (Real.pi / 2 * (u / rate))

/-- The fraction that `quarterSine` rounds: its numerator and its denominator. -/
def sineFraction (rate u : ℕ) : ℤ × ℤ :=
  let a : ℤ := piNumer * u
  let b : ℤ := 2 * piDenom * rate
  (a * (sineSeries (a * a) (b * b) sineTerms 1).1, b * (sineSeries (a * a) (b * b) sineTerms 1).2)

/-- The level the model computes. -/
noncomputable def computedLevel (rate u : ℕ) : ℝ := 65534 * ((sineFraction rate u).1 / (sineFraction rate u).2)

/-- The model's angle, with its own pi. -/
noncomputable def modelAngle (rate u : ℕ) : ℝ := piNumer / piDenom / 2 * (u / rate)

theorem sineFraction_denominator_pos {rate : ℕ} (hr : 0 < rate) (u : ℕ) : 0 < (sineFraction rate u).2 := by
  have hb : (0 : ℤ) < 2 * piDenom * rate := by
    have : (0 : ℤ) < piDenom := by decide
    positivity
  exact mul_pos hb (sineSeries_denominator_pos (mul_pos hb hb) _ 0)

theorem sineFraction_value {rate : ℕ} (hr : 0 < rate) (u : ℕ) :
    ((sineFraction rate u).1 : ℝ) / (sineFraction rate u).2 =
      ∑ j ∈ Finset.range (2 * 7 + 1), (-1) ^ j * taylorTerm (modelAngle rate u) j := by
  have hpi : (0 : ℤ) < piDenom := by decide
  have hx : ((piNumer * u : ℤ) : ℝ) / (2 * piDenom * rate : ℤ) = modelAngle rate u := by
    rw [modelAngle]
    push_cast
    ring
  rw [← hx]
  exact mul_sineSeries_value (by positivity) 14

theorem abs_piNumer_div_piDenom_sub_pi_le : |(piNumer / piDenom : ℝ) - Real.pi| ≤ 1 / 10 ^ 20 := by
  have hlo := Real.pi_gt_d20
  have hhi := Real.pi_lt_d20
  rw [abs_le, piNumer, piDenom]
  constructor
  · norm_num at *
    linarith
  · norm_num at *
    linarith

theorem modelAngle_bounds {rate u : ℕ} (hr : 0 < rate) (hu : u ≤ rate) :
    0 ≤ modelAngle rate u ∧ modelAngle rate u ≤ 1.6 := by
  have hpi : (piNumer / piDenom / 2 : ℝ) ≤ 1.6 := by norm_num [piNumer, piDenom]
  have hle : (u / rate : ℝ) ≤ 1 := div_le_one_of_le₀ (mod_cast hu) (by positivity)
  refine ⟨by rw [modelAngle]; positivity, ?_⟩
  calc modelAngle rate u ≤ 1.6 * 1 := by rw [modelAngle]; gcongr
    _ = 1.6 := mul_one _

/-- The computation's error: that of pi to 20 decimals, which is as far as Mathlib's bounds on pi go, and the first term
that the Taylor polynomial leaves out. -/
theorem abs_computedLevel_sub_exactLevel_lt {rate u : ℕ} (hr : 0 < rate) (hu : u ≤ rate) :
    |computedLevel rate u - exactLevel rate u| < 1 / (2 * 10 ^ 15) := by
  obtain ⟨h0, h16⟩ := modelAngle_bounds hr hu
  have hcut : |(sineFraction rate u).1 / (sineFraction rate u).2 - Real.sin (modelAngle rate u)| ≤ 1 / 10 ^ 25 := by
    rw [sineFraction_value hr]
    refine (abs_taylor_sub_sin_le h0 (by nlinarith) 7).trans ?_
    calc taylorTerm (modelAngle rate u) (2 * 7 + 1) ≤ taylorTerm 1.6 (2 * 7 + 1) := by
          rw [taylorTerm, taylorTerm]
          gcongr
      _ ≤ 1 / 10 ^ 25 := by norm_num [taylorTerm, Nat.factorial]
  have hangle : |Real.sin (modelAngle rate u) - Real.sin (Real.pi / 2 * (u / rate))| ≤ 1 / 10 ^ 20 / 2 * 1 := by
    have hle : (u / rate : ℝ) ≤ 1 := div_le_one_of_le₀ (mod_cast hu) (by positivity)
    calc _ ≤ |modelAngle rate u - Real.pi / 2 * (u / rate)| := Real.abs_sin_sub_sin_le _ _
      _ = |(piNumer / piDenom : ℝ) - Real.pi| / 2 * (u / rate) := by
          rw [modelAngle, ← sub_mul, ← sub_div, abs_mul, abs_div, abs_two, abs_of_nonneg (by positivity : (0 : ℝ) ≤ u / rate)]
      _ ≤ 1 / 10 ^ 20 / 2 * 1 := by
          gcongr
          exact abs_piNumer_div_piDenom_sub_pi_le
  rw [computedLevel, exactLevel, ← mul_sub, abs_mul, abs_of_pos (by norm_num)]
  have htri := abs_sub_le ((sineFraction rate u).1 / (sineFraction rate u).2 : ℝ) (Real.sin (modelAngle rate u))
    (Real.sin (Real.pi / 2 * (u / rate)))
  norm_num at *
  linarith

theorem exactLevel_le_exactLevel {a b c d : ℕ} (hb : 0 < b) (hd : 0 < d) (hcd : c ≤ d) (h : a * d ≤ c * b) :
    exactLevel b a ≤ exactLevel d c := by
  have hfrac : (a / b : ℝ) ≤ c / d := by
    rw [div_le_div_iff₀ (by positivity) (by positivity)]
    exact_mod_cast h
  have hone : (c / d : ℝ) ≤ 1 := div_le_one_of_le₀ (mod_cast hcd) (by positivity)
  have hpi := Real.pi_pos
  have h0 : (0 : ℝ) ≤ a / b := by positivity
  rw [exactLevel, exactLevel]
  gcongr
  exact Real.sin_le_sin_of_le_of_le_pi_div_two (by nlinarith) (by nlinarith) (by gcongr)

theorem exactLevel_bounds {rate u : ℕ} (hr : 0 < rate) (hu : u ≤ rate) :
    0 ≤ exactLevel rate u ∧ exactLevel rate u ≤ 65534 := by
  have h0 := exactLevel_le_exactLevel hr hr hu (by omega : 0 * rate ≤ u * rate)
  have hone := Real.sin_le_one (Real.pi / 2 * (u / rate))
  constructor
  · simpa [exactLevel] using h0
  · rw [exactLevel]
    linarith

end Sys2Proof.Machine
end

section
/-! PROOFS. No angle is too close to a rounding threshold (spec/40_synthesis.md R112). The thresholds are the odd levels
m = 2i + 1. Only a rational angle u / rate close to the angle of level m could be rounded the wrong way there. For each m two
neighbouring Farey fractions a/b < c/d enclose that angle; no fraction with a denominator below 2^24 lies between
them, and both are far enough from the threshold for the computation's error. Level 32767 is the exception: it is reached,
at the tie u / rate = 1/3, and 1/3 itself is a neighbour on both sides.

That the enclosing fractions exist is a fact about 32767 transcendental numbers, one by one, so it is evaluated in the
kernel. The functions that are evaluated recurse by `Nat.rec` and name the operations of `Nat`, because the kernel computes
those at once. -/

namespace Sys2Proof.Machine

/-! Fractions with small denominators. -/

/-- Between Farey neighbours no fraction has a denominator below the sum of theirs. -/
theorem le_or_le_of_farey_neighbours {a b c d rate : ℕ} (hdet : b * c = a * d + 1) (hsum : rate < b + d) (u : ℕ) :
    u * b ≤ a * rate ∨ c * rate ≤ u * d := by
  by_contra! hbetween
  obtain ⟨hlo, hhi⟩ := hbetween
  have hb : b * (u * d + 1) ≤ b * (c * rate) := Nat.mul_le_mul_left b hhi
  have hd : d * (a * rate + 1) ≤ d * (u * b) := Nat.mul_le_mul_left d hlo
  have hrate : b * c * rate = a * d * rate + rate := by rw [hdet, Nat.add_mul, Nat.one_mul]
  nlinarith

/-! The series in natural numbers, from its last term inward. -/

/-- The steps k, …, 1 of the series, from the value n / d of the terms after step k. Irreducible, so that only the kernel, on
numerals, ever runs the steps. -/
@[irreducible] def seriesLoop (zn zd k : ℕ) : (n d : ℕ) → ℕ × ℕ :=
  Nat.rec (motive := fun _ => ℕ → ℕ → ℕ × ℕ) (fun n d => (n, d))
    (fun k next n d =>
      let e := Nat.mul (Nat.mul zd (Nat.mul (Nat.mul 2 (Nat.succ k)) (Nat.succ (Nat.mul 2 (Nat.succ k))))) d
      next (Nat.sub e (Nat.mul zn n)) e)
    k

theorem seriesLoop_zero (zn zd n d : ℕ) : seriesLoop zn zd 0 n d = (n, d) := by
  unfold seriesLoop
  rfl

theorem seriesLoop_succ (zn zd k n d : ℕ) :
    seriesLoop zn zd (k + 1) n d =
      seriesLoop zn zd k (zd * (2 * (k + 1) * (2 * (k + 1) + 1)) * d - zn * n)
        (zd * (2 * (k + 1) * (2 * (k + 1) + 1)) * d) := by
  unfold seriesLoop
  rfl

/-- For x^2 up to 6 no step goes below zero, and the loop is the model's series. -/
theorem sineSeries_eq_seriesLoop {zn zd : ℕ} (hz : zn ≤ 6 * zd) {k terms n d : ℕ}
    (hs : sineSeries zn zd terms (k + 1) = (↑n, ↑d)) (hnd : n ≤ d) :
    sineSeries zn zd (terms + k) 1 = (↑(seriesLoop zn zd k n d).1, ↑(seriesLoop zn zd k n d).2) := by
  induction k generalizing terms n d with
  | zero => rwa [seriesLoop_zero]
  | succ k ih =>
    have hsmall : zn * n ≤ zd * (2 * (k + 1) * (2 * (k + 1) + 1)) * d := by
      calc zn * n ≤ 6 * zd * d := Nat.mul_le_mul hz hnd
        _ = zd * 6 * d := by ring
        _ ≤ zd * (2 * (k + 1) * (2 * (k + 1) + 1)) * d := by
            gcongr
            nlinarith
    rw [seriesLoop_succ, show terms + (k + 1) = terms + 1 + k by ring]
    refine ih ?_ (Nat.sub_le _ _)
    rw [sineSeries_succ, hs, Nat.cast_sub hsmall]
    push_cast
    rfl

/-- The computed level of u / rate as a fraction, in units of 10^-15. -/
def scaledLevel (rate u : ℕ) : ℕ × ℕ :=
  let a := Nat.mul piNumer u
  let b := Nat.mul (Nat.mul 2 piDenom) rate
  let v := seriesLoop (Nat.mul a a) (Nat.mul b b) sineTerms 1 1
  (Nat.mul (Nat.mul 65534000000000000000 a) v.1, Nat.mul b v.2)

theorem scaledLevel_eq {rate u : ℕ} (hu : u ≤ rate) :
    ((scaledLevel rate u).1 : ℤ) = 65534 * 10 ^ 15 * (sineFraction rate u).1 ∧
    ((scaledLevel rate u).2 : ℤ) = (sineFraction rate u).2 := by
  have hz : piNumer * u * (piNumer * u) ≤ 6 * (2 * piDenom * rate * (2 * piDenom * rate)) := by
    calc piNumer * u * (piNumer * u) = piNumer * piNumer * (u * u) := by ring
      _ ≤ 24 * (piDenom * piDenom) * (rate * rate) := Nat.mul_le_mul (by decide) (Nat.mul_le_mul hu hu)
      _ = 6 * (2 * piDenom * rate * (2 * piDenom * rate)) := by ring
  have hs := sineSeries_eq_seriesLoop hz (k := sineTerms) (terms := 0) (n := 1) (d := 1) rfl le_rfl
  rw [Nat.zero_add] at hs
  push_cast at hs
  simp only [scaledLevel, sineFraction, hs, Nat.mul_eq]
  push_cast
  exact ⟨by ring, rfl⟩

theorem scaledLevel_value {rate u : ℕ} (hr : 0 < rate) (hu : u ≤ rate) :
    0 < ((scaledLevel rate u).2 : ℝ) ∧
    ((scaledLevel rate u).1 : ℝ) = computedLevel rate u * 10 ^ 15 * (scaledLevel rate u).2 := by
  obtain ⟨hp, hq⟩ := scaledLevel_eq hu
  have hpos : (0 : ℝ) < (sineFraction rate u).2 := mod_cast sineFraction_denominator_pos hr u
  have hp' : ((scaledLevel rate u).1 : ℝ) = 65534 * 10 ^ 15 * (sineFraction rate u).1 := mod_cast hp
  have hq' : ((scaledLevel rate u).2 : ℝ) = (sineFraction rate u).2 := mod_cast hq
  rw [hp', hq', computedLevel]
  exact ⟨hpos, by field_simp⟩

/-! One threshold. -/

/-- Every angle but the tie, at every rate of R5, has both of its levels below the threshold m or both above it. -/
def Decided (m : ℕ) : Prop :=
  ∀ rate u : ℕ, 0 < rate → rate < 2 ^ 24 → u ≤ rate → 3 * u ≠ rate →
    (exactLevel rate u < m ∧ computedLevel rate u < m) ∨ (m < exactLevel rate u ∧ m < computedLevel rate u)

/-- The level of a/b is below m by 10^-15 or more. -/
def levelBelow (m a b : ℕ) : Bool :=
  let v := scaledLevel b a
  Nat.ble (Nat.add v.1 v.2) (Nat.mul (Nat.mul m 1000000000000000) v.2)

/-- The level of c/d is above m by 10^-15 or more. -/
def levelAbove (m c d : ℕ) : Bool :=
  let v := scaledLevel d c
  Nat.ble (Nat.add (Nat.mul (Nat.mul m 1000000000000000) v.2) v.2) v.1

theorem computedLevel_le_of_levelBelow {m a b : ℕ} (hb : 0 < b) (hab : a ≤ b) (h : levelBelow m a b = true) :
    computedLevel b a ≤ m - 1 / 10 ^ 15 := by
  simp only [levelBelow, Nat.ble_eq, Nat.add_eq, Nat.mul_eq] at h
  obtain ⟨hpos, hvalue⟩ := scaledLevel_value hb hab
  have hle : ((scaledLevel b a).1 : ℝ) + (scaledLevel b a).2 ≤ m * 10 ^ 15 * (scaledLevel b a).2 := by
    norm_num
    exact_mod_cast h
  have hscaled : computedLevel b a * 10 ^ 15 + 1 ≤ m * 10 ^ 15 := by nlinarith
  linarith

theorem le_computedLevel_of_levelAbove {m c d : ℕ} (hd : 0 < d) (hcd : c ≤ d) (h : levelAbove m c d = true) :
    m + 1 / 10 ^ 15 ≤ computedLevel d c := by
  simp only [levelAbove, Nat.ble_eq, Nat.add_eq, Nat.mul_eq] at h
  obtain ⟨hpos, hvalue⟩ := scaledLevel_value hd hcd
  have hle : (m * 10 ^ 15 * (scaledLevel d c).2 + (scaledLevel d c).2 : ℝ) ≤ (scaledLevel d c).1 := by
    norm_num
    exact_mod_cast h
  have hscaled : m * 10 ^ 15 + 1 ≤ computedLevel d c * 10 ^ 15 := by nlinarith
  linarith

/-- A threshold is decided when every angle but the tie is at or beyond one of two fractions whose levels are far enough
from it: twice the error of the computation. -/
theorem decided_of_fractions {m a b c d : ℕ} (hb : 0 < b) (hab : a ≤ b) (hd : 0 < d) (hcd : c ≤ d)
    (hbelow : levelBelow m a b = true) (habove : levelAbove m c d = true)
    (hside : ∀ rate u : ℕ, rate < 2 ^ 24 → 3 * u ≠ rate → u * b ≤ a * rate ∨ c * rate ≤ u * d) : Decided m := by
  intro rate u hr hlt hu htie
  have herr := abs_lt.1 (abs_computedLevel_sub_exactLevel_lt hr hu)
  obtain h | h := hside rate u hlt htie
  · have herr' := abs_lt.1 (abs_computedLevel_sub_exactLevel_lt hb hab)
    have hlevel := computedLevel_le_of_levelBelow hb hab hbelow
    have hmono := exactLevel_le_exactLevel hr hb hab h
    refine .inl ⟨?_, ?_⟩ <;> linarith
  · have herr' := abs_lt.1 (abs_computedLevel_sub_exactLevel_lt hd hcd)
    have hlevel := le_computedLevel_of_levelAbove hd hcd habove
    have hmono := exactLevel_le_exactLevel hd hr hu h
    refine .inr ⟨?_, ?_⟩ <;> linarith

/-- The fractions a/b < c/d are neighbours up to the rates of R5 and enclose the threshold m. -/
def encloses (m a b c d : ℕ) : Bool :=
  Nat.beq (Nat.mul b c) (Nat.succ (Nat.mul a d)) && (Nat.ble 16777216 (Nat.add b d) && (Nat.ble c d &&
    (levelBelow m a b && levelAbove m c d)))

theorem decided_of_encloses {m a b c d : ℕ} (h : encloses m a b c d = true) : Decided m := by
  simp only [encloses, Bool.and_eq_true, Nat.beq_eq, Nat.ble_eq, Nat.add_eq, Nat.mul_eq, Nat.succ_eq_add_one] at h
  obtain ⟨hdet, hsum, hcd, hbelow, habove⟩ := h
  have hb : 0 < b := Nat.pos_of_ne_zero fun h0 => by simp [h0] at hdet
  have hd : 0 < d := Nat.pos_of_ne_zero fun h0 => by simp [h0, Nat.le_zero.1 (h0 ▸ hcd)] at hdet
  have hmul : a * d + 1 ≤ b * d := hdet ▸ Nat.mul_le_mul_left b hcd
  have hab : a ≤ b := Nat.le_of_mul_le_mul_right ((Nat.le_succ _).trans hmul) hd
  exact decided_of_fractions hb hab hd hcd hbelow habove fun rate u hlt _ =>
    le_or_le_of_farey_neighbours hdet (hlt.trans_le hsum) u

/-- The threshold of the tie, with the neighbours of 1/3. -/
theorem decided_tie : Decided 32767 := by
  refine decided_of_fractions (a := 5592404) (b := 16777213) (c := 5592405) (d := 16777214) (by decide) (by decide)
    (by decide) (by decide) (by decide +kernel) (by decide +kernel) fun rate u hlt htie => ?_
  obtain hbelow | hbelow := le_or_le_of_farey_neighbours (b := 16777213) (a := 5592404) (c := 1) (d := 3) (rate := rate)
    (by decide) (by omega) u
  · exact .inl hbelow
  obtain habove | habove := le_or_le_of_farey_neighbours (b := 3) (a := 1) (c := 5592405) (d := 16777214) (rate := rate)
    (by decide) (by omega) u
  · omega
  · exact .inr habove

/-! The search for the enclosing fractions. Nothing is proved about it: what it finds is checked by `encloses`. -/

/-- 1 in the fixed point of the search, 2^80. -/
def fixedOne : ℕ := 1208925819614629174706176

/-- Newton's steps towards the square root of n. -/
def sqrtLoop (n steps : ℕ) : (guess : ℕ) → ℕ :=
  Nat.rec (motive := fun _ => ℕ → ℕ) (fun g => g) (fun _ next g => next (Nat.div (Nat.add g (Nat.div n g)) 2)) steps

/-- The levels k, …, 1 of the continued fraction of h / arctan h, with v for what follows level k. -/
def arctanLoop (hSquare k : ℕ) : (v : ℕ) → ℕ :=
  Nat.rec (motive := fun _ => ℕ → ℕ) (fun v => v)
    (fun k next v =>
      next (Nat.add (Nat.mul (Nat.succ (Nat.add k k)) fixedOne)
        (Nat.div (Nat.mul (Nat.mul (Nat.succ k) (Nat.succ k)) hSquare) v)))
    k

/-- The angle of level m in quarter turns, as 2 arctan h with h = m / (65534 + sqrt(65534^2 - m^2)). -/
def thresholdAngle (m : ℕ) : ℕ :=
  let r := Nat.mul fixedOne 65534
  let s := Nat.mul fixedOne m
  let h := Nat.div (Nat.mul s fixedOne) (Nat.add r (sqrtLoop (Nat.sub (Nat.mul r r) (Nat.mul s s)) 13 r))
  Nat.div (Nat.mul (Nat.mul (Nat.mul h fixedOne) 4) piDenom) (Nat.mul piNumer (arctanLoop (Nat.mul h h) 26 fixedOne))

/-- The denominators of the Farey neighbours around an angle, by its continued fraction: b and d are those reached below and
above it, x and y measure how far it is from the two fractions. -/
def neighbourLoop (steps : ℕ) : (b d x y : ℕ) → ℕ × ℕ :=
  Nat.rec (motive := fun _ => ℕ → ℕ → ℕ → ℕ → ℕ × ℕ) (fun b d _ _ => (b, d))
    (fun _ next b d x y =>
      let b' := Nat.add b (Nat.mul (Nat.div x y) d)
      match Nat.ble 16777216 b' with
      | true => (Nat.add b (Nat.mul (Nat.div (Nat.sub 16777215 b) d) d), d)
      | false =>
        let x' := Nat.mod x y
        let d' := Nat.add d (Nat.mul (Nat.div y x') b')
        match Nat.ble 16777216 d' with
        | true => (b', Nat.add d (Nat.mul (Nat.div (Nat.sub 16777215 d) b') b'))
        | false => next b' d' x' (Nat.mod y x'))
    steps

/-- The search for the threshold m succeeds. -/
def found (m : ℕ) : Bool :=
  let t := thresholdAngle m
  let v := neighbourLoop 20 1 1 t (Nat.sub fixedOne t)
  encloses m (Nat.div (Nat.mul t v.1) fixedOne) v.1 (Nat.succ (Nat.div (Nat.mul t v.2) fixedOne)) v.2

theorem decided_of_found {m : ℕ} (h : found m = true) : Decided m := by
  unfold found at h
  exact decided_of_encloses h

/-- The threshold 2i + 1 needs no search or has a successful one: 16383 is the tie, 32767 is beyond the last level. -/
def settled (i : ℕ) : Bool :=
  Nat.beq i 16383 || (Nat.beq i 32767 || found (Nat.succ (Nat.mul 2 i)))

/-- `settled` for all i with i / 2^k = block. -/
def blockSettled (k : ℕ) : (block : ℕ) → Bool :=
  Nat.rec (motive := fun _ => ℕ → Bool) settled
    (fun _ half block => half (Nat.mul 2 block) && half (Nat.succ (Nat.mul 2 block))) k

theorem settled_of_blockSettled {k i : ℕ} (h : blockSettled k (i / 2 ^ k) = true) : settled i = true := by
  induction k with
  | zero => exact (Nat.div_one i).symm ▸ h
  | succ k ih =>
    have hboth : (blockSettled k (2 * (i / 2 ^ (k + 1))) && blockSettled k (2 * (i / 2 ^ (k + 1)) + 1)) = true := h
    obtain ⟨hleft, hright⟩ := (Bool.and_eq_true _ _).mp hboth
    have hdiv : i / 2 ^ (k + 1) = i / 2 ^ k / 2 := by rw [pow_succ, Nat.div_div_eq_div_mul]
    obtain hhalf | hhalf : i / 2 ^ k = 2 * (i / 2 ^ (k + 1)) ∨ i / 2 ^ k = 2 * (i / 2 ^ (k + 1)) + 1 := by omega
    · exact ih (hhalf ▸ hleft)
    · exact ih (hhalf ▸ hright)

/-! The evaluation, in blocks that the kernel can hold. -/

theorem blockSettled_below_8 : ∀ block < 8, blockSettled 10 block = true := by
  intro block hhi
  interval_cases block <;> decide +kernel

theorem blockSettled_below_16 : ∀ block < 16, 8 ≤ block → blockSettled 10 block = true := by
  intro block hhi hlo
  interval_cases block <;> decide +kernel

theorem blockSettled_below_24 : ∀ block < 24, 16 ≤ block → blockSettled 10 block = true := by
  intro block hhi hlo
  interval_cases block <;> decide +kernel

theorem blockSettled_below_32 : ∀ block < 32, 24 ≤ block → blockSettled 10 block = true := by
  intro block hhi hlo
  interval_cases block <;> decide +kernel

theorem blockSettled_of_lt {block : ℕ} (h : block < 32) : blockSettled 10 block = true := by
  obtain h8 | h8 := Nat.lt_or_ge block 8
  · exact blockSettled_below_8 block h8
  obtain h16 | h16 := Nat.lt_or_ge block 16
  · exact blockSettled_below_16 block h16 h8
  obtain h24 | h24 := Nat.lt_or_ge block 24
  · exact blockSettled_below_24 block h24 h16
  · exact blockSettled_below_32 block h h24

/-- Every threshold is decided. -/
theorem decided_odd {i : ℕ} (hi : i < 32767) : Decided (2 * i + 1) := by
  have hsettled := settled_of_blockSettled (k := 10) (i := i) (blockSettled_of_lt (by omega))
  simp only [settled, Bool.or_eq_true, Nat.beq_eq, Nat.succ_eq_add_one, Nat.mul_eq] at hsettled
  obtain rfl | hlast | hfound := hsettled
  · exact decided_tie
  · omega
  · exact decided_of_found hfound

end Sys2Proof.Machine
end

section
/-! PROOFS. S is exact at every rate (spec/40_synthesis.md R110 to R112): the decided thresholds give the rounding on the
first quarter turn, and the model's fold gives the rest of the turn. -/

namespace Sys2Proof.Machine

/-! The first quarter turn. -/

/-- Off the tie, `quarterSine` is the rounding of its fraction. -/
theorem le_quarterSine_iff {rate u : ℕ} (hr : 0 < rate) (htie : 3 * u ≠ rate) (v : ℤ) :
    v ≤ quarterSine rate u ↔ 2 * (v : ℝ) - 1 ≤ computedLevel rate u := by
  have hden := sineFraction_denominator_pos hr u
  have hround : quarterSine rate u =
      (65534 * (sineFraction rate u).1 + (sineFraction rate u).2) / (2 * (sineFraction rate u).2) := by
    simp only [quarterSine, htie, if_false, sineFraction]
    ring_nf
  have hden' : (0 : ℝ) < (sineFraction rate u).2 := mod_cast hden
  rw [hround, Int.le_ediv_iff_mul_le (by positivity), computedLevel, ← mul_div_assoc, le_div_iff₀ hden', ← Int.cast_le (R := ℝ)]
  push_cast
  constructor <;> intro h <;> linarith

/-- No threshold lies between the two levels of an angle that is not the tie. -/
theorem threshold_le_computedLevel_iff {rate u : ℕ} (hr : 0 < rate) (hlt : rate < 2 ^ 24) (hu : u ≤ rate)
    (htie : 3 * u ≠ rate) (v : ℤ) : 2 * (v : ℝ) - 1 ≤ computedLevel rate u ↔ 2 * (v : ℝ) - 1 ≤ exactLevel rate u := by
  obtain ⟨hlo, hhi⟩ := exactLevel_bounds hr hu
  have herr := abs_lt.1 (abs_computedLevel_sub_exactLevel_lt hr hu)
  obtain hv | hv | hv : v ≤ 0 ∨ 32768 ≤ v ∨ ∃ i : ℕ, i < 32767 ∧ v = i + 1 := by
    by_cases h : 0 < v ∧ v < 32768
    · exact .inr (.inr ⟨(v - 1).toNat, by omega, by omega⟩)
    · omega
  · have hv' : (v : ℝ) ≤ 0 := mod_cast hv
    constructor <;> intro <;> linarith
  · have hv' : (32768 : ℝ) ≤ v := mod_cast hv
    constructor <;> intro <;> linarith
  · obtain ⟨i, hi, rfl⟩ := hv
    have hside := decided_odd hi rate u hr hlt hu htie
    push_cast at hside ⊢
    obtain ⟨hexact, hcomputed⟩ | ⟨hexact, hcomputed⟩ := hside
    all_goals constructor <;> intro <;> linarith

/-- At the tie the sine is 1/2. -/
theorem exactLevel_tie {rate u : ℕ} (hr : 0 < rate) (htie : 3 * u = rate) : exactLevel rate u = 32767 := by
  have hfrac : (u / rate : ℝ) = 1 / 3 := by
    have hr' : (rate : ℝ) ≠ 0 := by positivity
    have htie' : 3 * (u : ℝ) = rate := mod_cast htie
    field_simp
    linarith
  rw [exactLevel, hfrac, show Real.pi / 2 * (1 / 3) = Real.pi / 6 by ring, Real.sin_pi_div_six]
  norm_num

/-- `quarterSine` rounds the exact value, half a step up. -/
theorem quarterSine_eq_floor {rate u : ℕ} (hr : 0 < rate) (hlt : rate < 2 ^ 24) (hu : u ≤ rate) :
    quarterSine rate u = ⌊32767 * Real.sin (Real.pi / 2 * (u / rate)) + 1 / 2⌋ := by
  have hlevel : 32767 * Real.sin (Real.pi / 2 * (u / rate)) = exactLevel rate u / 2 := by
    rw [exactLevel]
    ring
  rw [hlevel]
  by_cases htie : 3 * u = rate
  · rw [exactLevel_tie hr htie, quarterSine, if_pos htie]
    norm_num
  · refine eq_of_forall_le_iff fun v => ?_
    rw [le_quarterSine_iff hr htie, threshold_le_computedLevel_iff hr hlt hu htie, Int.le_floor]
    constructor <;> intro <;> linarith

/-! The whole turn. -/

/-- The value of R110 from the first quarter turn: y is the folded angle, and its sine may be negated. -/
theorem exactSample_of_sin_eq {rate a : ℕ} {y : ℝ} (hy : 0 ≤ Real.sin y)
    (h : Real.sin (2 * Real.pi * a / rate) = Real.sin y) :
    ExactSample rate a ⌊32767 * Real.sin y + 1 / 2⌋ := by
  simp only [ExactSample, h]
  exact ⟨fun _ => trivial, fun hneg => by linarith⟩

theorem exactSample_of_sin_eq_neg {rate a : ℕ} {y : ℝ} (hy : 0 ≤ Real.sin y)
    (h : Real.sin (2 * Real.pi * a / rate) = -Real.sin y) :
    ExactSample rate a (-⌊32767 * Real.sin y + 1 / 2⌋) := by
  simp only [ExactSample, h]
  refine ⟨fun hpos => ?_, fun _ => by rw [mul_neg, neg_neg]⟩
  have hzero : Real.sin y = 0 := by linarith
  norm_num [hzero]

theorem sin_quarter_nonneg {rate u : ℕ} (hr : 0 < rate) (hu : u ≤ rate) :
    0 ≤ Real.sin (Real.pi / 2 * (u / rate)) := by
  have := (exactLevel_bounds hr hu).1
  rw [exactLevel] at this
  linarith

/-- The position in the turn is a number of quarter turns and a rest. -/
theorem turn_eq_quarters {rate : ℕ} (hr : 0 < rate) (a : ℕ) :
    2 * Real.pi * a / rate =
      Real.pi / 2 * ((4 * a % rate : ℕ) / rate) + Real.pi / 2 * (4 * a / rate : ℕ) := by
  have hr' : (rate : ℝ) ≠ 0 := by positivity
  have hdiv : (rate : ℝ) * (4 * a / rate : ℕ) + (4 * a % rate : ℕ) = 4 * a := mod_cast Nat.div_add_mod (4 * a) rate
  field_simp
  linarith

/-- The angle of the mirrored rest. -/
theorem quarter_mirror {rate u : ℕ} (hr : 0 < rate) (hu : u ≤ rate) :
    Real.pi / 2 * ((rate - u : ℕ) / rate) = Real.pi / 2 - Real.pi / 2 * (u / rate) := by
  have hr' : (rate : ℝ) ≠ 0 := by positivity
  push_cast [hu]
  field_simp

/-- Settles O7: `quarterSine_eq_floor` on the first quarter turn, and the symmetry of sin for each other quarter. -/
theorem sineExactAtEveryRate : Obligations.SineExactAtEveryRate := by
  intro rate a hr hlt ha
  have hu : 4 * a % rate ≤ rate := (Nat.mod_lt _ hr).le
  have hturn := turn_eq_quarters hr a
  have hquarter : 4 * a / rate < 4 := Nat.div_lt_of_lt_mul (by omega)
  simp only [sineSample]
  generalize 4 * a % rate = u, 4 * a / rate = quarter at *
  have hmirror : rate - u ≤ rate := Nat.sub_le _ _
  obtain rfl | rfl | rfl | rfl : quarter = 0 ∨ quarter = 1 ∨ quarter = 2 ∨ quarter = 3 := by omega
  · rw [quarterSine_eq_floor hr hlt hu]
    refine exactSample_of_sin_eq (sin_quarter_nonneg hr hu) ?_
    rw [hturn, Nat.cast_zero, mul_zero, add_zero]
  · rw [quarterSine_eq_floor hr hlt hmirror]
    refine exactSample_of_sin_eq (sin_quarter_nonneg hr hmirror) ?_
    rw [hturn, quarter_mirror hr hu, Real.sin_pi_div_two_sub, Nat.cast_one, mul_one, Real.sin_add_pi_div_two]
  · rw [quarterSine_eq_floor hr hlt hu]
    refine exactSample_of_sin_eq_neg (sin_quarter_nonneg hr hu) ?_
    rw [hturn, Nat.cast_ofNat, div_mul_cancel₀ _ two_ne_zero, Real.sin_add_pi]
  · rw [quarterSine_eq_floor hr hlt hmirror]
    refine exactSample_of_sin_eq_neg (sin_quarter_nonneg hr hmirror) ?_
    rw [hturn, quarter_mirror hr hu, Real.sin_pi_div_two_sub, Nat.cast_ofNat,
      show Real.pi / 2 * 3 = Real.pi + Real.pi / 2 by ring, ← add_assoc, Real.sin_add_pi_div_two, Real.cos_add_pi]

end Sys2Proof.Machine
end

section
/-! PROOFS. The engine's steps and the end of a run (spec/41_stream_control.md R140, R143, R144). -/

namespace Sys2Proof.Machine

/-- With no word to pop the engine has no step in READY (R140). -/
theorem engineStep_of_no_word {s : State} (he : s.engine = .ready) (hq : s.cmdFifo = []) : engineStep s = .next s := by
  simp [engineStep, decodeStep, he, hq]

theorem runWord_of_legal {w : Word} {i : Instr} (h : decode w = .legal i) (s : State) : runWord w s = exec i s := by
  simp [runWord, h]

theorem step_engine_of_drain {s : State} (he : s.engine = .drain) :
    step (s.scheduled .engine) = .next (if drainRequestEnabled s then drainRequest s else s) := by
  rw [step_scheduled, runMove, engineStep, he]

theorem drainRequestEnabled_iff {s : State} : drainRequestEnabled s = true ↔ s.dreq = false ∧ s.outFifo = [] := by
  simp [drainRequestEnabled, outEmpty]

/-- The acknowledgement of a drain request completes the run (R144). -/
theorem step_drainAck_of_requested {s : State} (he : s.engine = .drain) (hd : s.dreq = true) :
    step (s.scheduled (.sink .drainAck)) = .next (drainComplete s) := by
  rw [step_scheduled, runMove, sinkStep, sinkDrainAck, if_pos ⟨he, hd⟩]

/-- Settles O16: the step runs the popped head (`engineStep_of_head`), which the decoder sends to its command or to the fatal
procedure. -/
theorem engineDecodesTheHead : Obligations.EngineDecodesTheHead := by
  intro s he
  rw [step_scheduled, runMove]
  refine ⟨engineStep_of_no_word he, fun w rest hq => ⟨fun i hw => ?_, fun why hw => ?_⟩⟩ <;>
    rw [engineStep_of_head he hq]
  · exact runWord_of_legal hw _
  · exact runWord_of_illegal (illegalWord_iff.mpr ⟨why, hw⟩) _

/-- Settles O24: with DREQ = 0, `drainRequestEnabled` asks for an empty OutFifo only. -/
theorem drainRequestStep : Obligations.DrainRequestStep := by
  intro s he hd
  rw [step_engine_of_drain he]
  refine ⟨fun ho => ?_, fun ho => ?_⟩
  · rw [if_pos (drainRequestEnabled_iff.mpr ⟨hd, ho⟩), drainRequest]
  · rw [if_neg fun hen => ho (drainRequestEnabled_iff.mp hen).2]

/-- Settles O25: the acknowledgement's state is `drainComplete s`, whose fields are R144's; the engine's one step in DRAIN, the
request, needs DREQ = 0. -/
theorem drainCompletionStep : Obligations.DrainCompletionStep := by
  intro s he hd
  have hidle : ¬ drainRequestEnabled s = true := fun hen => by
    simp [(drainRequestEnabled_iff.mp hen).1] at hd
  refine ⟨⟨drainComplete s, step_drainAck_of_requested he hd, rfl⟩, ?_⟩
  rw [step_engine_of_drain he, if_neg hidle]

end Sys2Proof.Machine
end

section
/-! PROOFS. The host's accesses (spec/41_stream_control.md R152, R153): the step of a whole-word write, in the state without
the write in the host's program, and that of a read. -/

namespace Sys2Proof.Machine

/-! A register neither reads nor writes the host's program. -/

theorem enable_hostNext (avail : Bool) (op : HostOp) (s : State) :
    enable avail (s.hostNext op) = (enable avail s).hostNext op := by
  simp only [enable, apply_ite (State.hostNext op)]
  rfl

theorem abort_hostNext (op : HostOp) (s : State) : abort (s.hostNext op) = (abort s).hostNext op := by
  simp only [abort, apply_ite (State.hostNext op)]
  rfl

theorem writeCtrl_hostNext (avail : Bool) (v : Word) (op : HostOp) (s : State) :
    writeCtrl avail v (s.hostNext op) = (writeCtrl avail v s).hostNext op := by
  simp only [writeCtrl, enable_hostNext, abort_hostNext, apply_ite (State.hostNext op)]
  rfl

theorem writeIrqStatus_hostNext (v : Word) (op : HostOp) (s : State) :
    writeIrqStatus v (s.hostNext op) = (writeIrqStatus v s).hostNext op := by
  simp only [writeIrqStatus_eq]
  rfl

theorem writeCmd_hostNext (w : Word) (op : HostOp) (s : State) :
    writeCmd w (s.hostNext op) = (writeCmd w s).map (State.hostNext op) := by
  simp only [writeCmd, apply_ite (Option.map (State.hostNext op))]
  rfl

theorem writeReg_hostNext (avail : Bool) (r : Reg) (v : Word) (op : HostOp) (s : State) :
    writeReg avail r v (s.hostNext op) = (writeReg avail r v s).map (State.hostNext op) := by
  cases r
  case ctrl => exact congrArg some (writeCtrl_hostNext avail v op s)
  case irqStatus => exact congrArg some (writeIrqStatus_hostNext v op s)
  case cmd => exact writeCmd_hostNext v op s
  all_goals rfl

theorem writeReg_hostQueue {avail : Bool} {r : Reg} {v : Word} {s t : State} (h : writeReg avail r v s = some t) :
    t.hostQueue = s.hostQueue := by
  have hirq : (writeIrqStatus v s).hostQueue = s.hostQueue := by rw [writeIrqStatus_eq]
  obtain rfl | ⟨-, -, rfl⟩ | ⟨-, -, -, -, -, -, rfl⟩ | ⟨-, -, -, -, -, -, rfl⟩ | ⟨-, -, -, -, rfl⟩ | ⟨-, rfl⟩ | ⟨-, rfl⟩ |
    ⟨-, -, rfl⟩ := writeReg_cases h
  exacts [rfl, rfl, rfl, rfl, rfl, hirq, rfl, rfl]

theorem readReg_hostNext (r : Reg) (op : HostOp) (s : State) : readReg r (s.hostNext op) = readReg r s := by
  cases r <;> rfl

/-! The steps. -/

/-- A write that its register takes completes: the host goes on, and the bus answers (R66). -/
theorem step_hostWrite_of_taken {avail : Bool} {r : Reg} {v : Word} {s t : State} (h : writeReg avail r v s = some t) :
    step ((s.hostNext (mmioWrite s.cfg r.offset v)).scheduled (.host avail)) = .next (answer .writeDone t) := by
  rw [step_hostWrite s avail r v r.offset rfl, writeReg_hostNext, h, ← writeReg_hostQueue h]
  rfl

/-- A write that its register does not take stays at the head of the host's program (R152). -/
theorem step_hostWrite_of_held {avail : Bool} {r : Reg} {v : Word} {s : State} (h : writeReg avail r v s = none) :
    step ((s.hostNext (mmioWrite s.cfg r.offset v)).scheduled (.host avail)) =
      .next (s.hostNext (mmioWrite s.cfg r.offset v)) := by
  rw [step_hostWrite s avail r v r.offset rfl, writeReg_hostNext, h]
  rfl

/-- A read is answered with the register's value, and changes nothing else (R66, R153). -/
theorem step_hostRead (s : State) (avail : Bool) (r : Reg) :
    step ((s.hostNext (mmioRead s.cfg r.offset)).scheduled (.host avail)) = .next (answer (.readData (readReg r s)) s) := by
  have hread : busRead (s.cfg.base + r.offset) .word (s.hostNext (mmioRead s.cfg r.offset)) =
      .readData (readReg r s) := by
    rw [busRead, State.hostNext_cfg, busTarget_reg]
    exact congrArg BusResponse.readData (readReg_hostNext r _ s)
  rw [step_scheduled, ← hread]
  rfl

end Sys2Proof.Machine
end

section
/-! PROOFS. What the host's writes and reads do (spec/41_stream_control.md R146 to R153). -/

namespace Sys2Proof.Machine

/-! The cases of a write to CTRL (R146). -/

theorem writeCtrl_of_srst {v : Word} (h1 : v.getLsbD 1 = true) (avail : Bool) (s : State) :
    writeCtrl avail v s = resetBlock s := by
  rw [writeCtrl, if_pos h1]

theorem writeCtrl_of_enable {v : Word} (h1 : v.getLsbD 1 = false) (h0 : v.getLsbD 0 = true) (avail : Bool) (s : State) :
    writeCtrl avail v s = enable avail s := by
  simp only [writeCtrl, h1, h0, Bool.false_eq_true, if_true, if_false]

theorem writeCtrl_of_abort {v : Word} (h1 : v.getLsbD 1 = false) (h0 : v.getLsbD 0 = false) (avail : Bool) (s : State) :
    writeCtrl avail v s = abort s := by
  simp only [writeCtrl, h1, h0, Bool.false_eq_true, if_false]

theorem step_ctrlWrite (s : State) (avail : Bool) (v : Word) :
    step ((s.hostNext (mmioWrite s.cfg 0x0C v)).scheduled (.host avail)) =
      .next (answer .writeDone (writeCtrl avail v s)) :=
  step_hostWrite_of_taken (r := .ctrl) rfl

/-! The outcomes of an enable (R147) and of an abort (R148). -/

theorem enable_of_running {s : State} (he : s.engine ≠ .off) (avail : Bool) : enable avail s = s := by
  simp [enable, he]

theorem enable_of_latched {s : State} (hc : s.code ≠ .none) (avail : Bool) : enable avail s = s := by
  simp [enable, hc]

theorem enable_of_no_device {s : State} (he : s.engine = .off) (hc : s.code = .none) :
    enable false s = fatal .deviceUnavailable 0#32 s := by
  simp [enable, he, hc]

theorem enable_of_device {s : State} (he : s.engine = .off) (hc : s.code = .none) : enable true s = startRun s := by
  simp [enable, he, hc]

theorem abort_of_running {s : State} (he : s.engine ≠ .off) :
    abort s = closeRun .aborted { s with cmdFifo := [] } := by
  simp [abort, he]

theorem abort_of_off {s : State} (he : s.engine = .off) : abort s = s := by
  simp [abort, he]

/-! The two writes to CMD that push nothing (R152). -/

theorem writeCmd_of_full_off (w : Word) {s : State} (h : ¬ s.cmdFifo.length < s.cfg.cmdDepth) (he : s.engine = .off) :
    writeCmd w s = some s := by
  simp [writeCmd, cmdRoom, h, he]

theorem writeCmd_of_full_running (w : Word) {s : State} (h : ¬ s.cmdFifo.length < s.cfg.cmdDepth) (he : s.engine ≠ .off) :
    writeCmd w s = none := by
  simp [writeCmd, cmdRoom, h, he]

/-! The statements. -/

/-- Settles O28: the three cases of `writeCtrl`. -/
theorem ctrlWriteOrder : Obligations.CtrlWriteOrder := by
  intro s avail v
  exact ⟨writeCtrl avail v s, step_ctrlWrite s avail v, fun h1 => writeCtrl_of_srst h1 avail s,
    fun ⟨h1, h0⟩ => writeCtrl_of_enable h1 h0 avail s, fun ⟨h1, h0⟩ => writeCtrl_of_abort h1 h0 avail s⟩

/-- Settles O29: the write is `enable avail s`, whose last two outcomes are the fatal procedure and `startRun`. -/
theorem enableOutcomes : Obligations.EnableOutcomes := by
  intro s avail v h1 h0
  refine ⟨enable avail s, ?_, fun he => enable_of_running he avail, fun ⟨_, hc⟩ => enable_of_latched hc avail, ?_, ?_⟩
  · rw [step_ctrlWrite, writeCtrl_of_enable h1 h0]
  · rintro ⟨he, hc, rfl⟩
    rw [enable_of_no_device he hc]
    rfl
  · rintro ⟨he, hc, rfl⟩
    rw [enable_of_device he hc]
    rfl

/-- Settles O30: the write is `abort s`, which closes a run after clearing CmdFifo. -/
theorem abortEndsRun : Obligations.AbortEndsRun := by
  intro s avail v h0 h1
  refine ⟨abort s, ?_, fun he => ?_, abort_of_off⟩
  · rw [step_ctrlWrite, writeCtrl_of_abort h1 h0]
  · rw [abort_of_running he]
    rfl

/-- Settles O31: the write leads to `resetBlock s` (`step_srst`), whose block state is that of `State.reset`. -/
theorem softResetGivesResetState : Obligations.SoftResetGivesResetState := by
  intro s avail v h1
  exact ⟨resetBlock s, step_srst s avail h1, rfl, by simp [readReg, readCtrl, flagBit], irqLine_resetBlock s⟩

/-- Settles O32: the fields of `writeIrqStatus_eq`. -/
theorem irqStatusWriteOneToClear : Obligations.IrqStatusWriteOneToClear := by
  intro s avail v
  refine ⟨writeIrqStatus v s, step_hostWrite_of_taken (r := .irqStatus) rfl, ?_⟩
  rw [writeIrqStatus_eq]
  exact ⟨rfl, rfl, rfl, rfl, rfl⟩

/-- Settles O33: `irqLine` is read from the state after the write, so it follows the new enables at once. -/
theorem irqEnableWrite : Obligations.IrqEnableWrite := by
  intro s avail v
  exact ⟨writeIrqEnable v s, step_hostWrite_of_taken (r := .irqEnable) rfl, rfl, rfl⟩

/-- Settles O34: CMD takes the write when it pushes or drops the word, and holds it otherwise. -/
theorem cmdWriteCases : Obligations.CmdWriteCases := by
  intro s avail w
  exact ⟨fun hroom => step_hostWrite_of_taken (r := .cmd) (writeCmd_of_room w hroom),
    fun ⟨hfull, he⟩ => step_hostWrite_of_taken (r := .cmd) (writeCmd_of_full_off w hfull he),
    fun ⟨hfull, he⟩ => step_hostWrite_of_held (r := .cmd) (writeCmd_of_full_running w hfull he)⟩

/-- Settles O35: `Reg.offset` is the table of R23, register by register, and the read there is `step_hostRead`. -/
theorem readReturnsRegister : Obligations.ReadReturnsRegister := by
  intro s avail r off htable
  have hoff : r.offset = off := by
    rw [htable]
    cases r <;> rfl
  subst hoff
  exact ⟨step_hostRead s avail r, rfl, rfl⟩

end Sys2Proof.Machine
end

section
/-! PROOFS. The sink's moves (spec/42_sample_datapath.md R173, R176, R180, R184): a frame accepted or rejected, and an
acknowledgement that nothing asks for. -/

namespace Sys2Proof.Machine

/-! The outcomes of a transfer while a frame is offered (R172). -/

theorem sinkTransfer_accept {s : State} {f : Sample} {rest : List Sample} (ho : s.engine ≠ .off)
    (hf : s.outFifo = f :: rest) : sinkTransfer true false s = acceptFrame f rest s := by
  simp [sinkTransfer, snkOpen, sinkOutcome, ho, hf]

/-- snk_fail decides alone: the level of snk_ready plays no part (R184). -/
theorem sinkTransfer_fail {s : State} (ready : Bool) (ho : s.engine ≠ .off) (hf : s.outFifo ≠ []) :
    sinkTransfer ready true s = rejectFrame s := by
  obtain ⟨f, rest, hf⟩ := List.exists_cons_of_ne_nil hf
  simp [sinkTransfer, snkOpen, sinkOutcome, ho, hf]

theorem step_transfer (s : State) (ready fail : Bool) :
    step (s.scheduled (.sink (.transfer ready fail))) = .next (sinkTransfer ready fail s) := by
  rw [step_scheduled, runMove, sinkStep]

/-! The engine in a segment: held on a full OutFifo, enabled again once the head is gone (R123, R173). -/

theorem engineEnabled_of_segment {s : State} (he : s.engine = .tone ∨ s.engine = .sil) :
    engineEnabled s = sampleEnabled s := by
  obtain he | he := he <;> rw [engineEnabled, he]

theorem engineEnabled_of_full {s : State} (he : s.engine = .tone ∨ s.engine = .sil)
    (hfull : s.outFifo.length = s.cfg.outDepth) : engineEnabled s = false := by
  rw [engineEnabled_of_segment he, Bool.eq_false_iff, ne_eq, sampleEnabled_iff]
  exact fun ⟨_, hroom⟩ => hroom.ne hfull

theorem engineEnabled_acceptFrame {s : State} {f : Sample} {rest : List Sample}
    (he : s.engine = .tone ∨ s.engine = .sil) (hr : s.remain ≠ 0#28) (hf : s.outFifo = f :: rest)
    (hbound : s.outFifo.length ≤ s.cfg.outDepth) : engineEnabled (acceptFrame f rest s) = true := by
  have hpos : 0 < s.remain.toNat := Nat.pos_of_ne_zero (BitVec.toNat_ne.mp hr)
  have hroom : rest.length < s.cfg.outDepth := by
    rw [hf, List.length_cons] at hbound
    exact hbound
  rw [engineEnabled_of_segment (s := acceptFrame f rest s) he, sampleEnabled_iff]
  exact ⟨hpos, hroom⟩

/-! The statements. -/

/-- Settles O26: the acknowledgement asks for STATE = DRAIN and DREQ = 1, and leaves every other state as it is. -/
theorem staleAcknowledgementIgnored : Obligations.StaleAcknowledgementIgnored := by
  intro s hstale
  rw [step_scheduled, runMove, sinkStep, sinkDrainAck, if_neg hstale]

/-- Settles O43: the step is `acceptFrame f rest s`, which leaves the room a full OutFifo lacked. -/
theorem acceptedFrame : Obligations.AcceptedFrame := by
  intro s f rest ho hf
  refine ⟨acceptFrame f rest s, ?_, rfl, fun ⟨he, hr, hfull⟩ => ?_⟩
  · rw [step_transfer, sinkTransfer_accept ho hf]
  · exact ⟨engineEnabled_of_full he hfull, engineEnabled_acceptFrame he hr hf hfull.le⟩

/-- Settles O44: either level of snk_ready leads to `rejectFrame s`, the fatal procedure with code 2 (R192, R195), which
writes neither SinkLog nor SAMPLES. -/
theorem rejectedFrame : Obligations.RejectedFrame := by
  intro s ready ho hf
  refine ⟨rejectFrame s, ?_, rfl⟩
  rw [step_transfer, sinkTransfer_fail ready ho hf]

end Sys2Proof.Machine
end

section
/-! PROOFS. The fatal error procedure (spec/60_exceptions.md R195). -/

namespace Sys2Proof.Machine

/-- Settles O27: R195's writes are those of `fatal` followed by those of the `closeRun` it ends with (R154), and neither
touches another field; the record of the run's end is `fatal_runEnd`'s. -/
theorem fatalProcedure : Obligations.FatalProcedure := by
  intro code info s
  rw [fatal_runEnd, fatal, closeRun]

end Sys2Proof.Machine
end

section
/-! PROOFS. The round trip of the encoding (spec/30_encoding.md R92 to R99): a word is its opcode and its operand, so a command
and its word give each other back. -/

namespace Sys2Proof

theorem eq_of_fields {w v : Word} (hop : opField w = opField v) (harg : argField w = argField v) : w = v := by
  rw [← opField_append_argField w, ← opField_append_argField v, hop, harg]

/-- The opcode and the operand of an encoded command decide what it decodes to (R93, R96). -/
theorem decode_encode {i : Instr} (h : i.wellFormed = true) : decode (encode i) = .legal i := by
  cases i with
  | setf f =>
    obtain ⟨hop, harg⟩ := Laws.EncodedFields.setf f h
    exact decode_eq_setf_iff.mpr ⟨BitVec.eq_of_toNat_eq hop, harg.symm⟩
  | tone n =>
    obtain ⟨hop, harg⟩ := Laws.EncodedFields.tone n h
    exact decode_eq_tone_iff.mpr ⟨BitVec.eq_of_toNat_eq hop, harg.symm⟩
  | sil n =>
    obtain ⟨hop, harg⟩ := Laws.EncodedFields.sil n h
    exact decode_eq_sil_iff.mpr ⟨BitVec.eq_of_toNat_eq hop, harg.symm⟩
  | drain => exact decode_of_op_four rfl rfl

theorem encode_injective {i j : Instr} (hi : i.wellFormed = true) (hj : j.wellFormed = true)
    (h : encode i = encode j) : i = j := by
  have hdecode : Decoded.legal i = .legal j := by rw [← decode_encode hi, h, decode_encode hj]
  exact Decoded.legal.inj hdecode

theorem encodedFields (i : Instr) : Laws.EncodedFields.Statement i := by
  cases i with
  | setf f => exact Laws.EncodedFields.setf f
  | tone n => exact Laws.EncodedFields.tone n
  | sil n => exact Laws.EncodedFields.sil n
  | drain => exact Laws.EncodedFields.drain

theorem decode_legal_fields {w : Word} {i : Instr} (h : decode w = .legal i) :
    (opField w).toNat = Laws.EncodedFields.opcodeOf i ∧ (argField w).toNat = Laws.EncodedFields.operandOf i := by
  obtain ⟨hop, rfl⟩ | ⟨hop, rfl⟩ | ⟨hop, rfl⟩ | ⟨hop, harg, rfl⟩ := decode_legal_cases h
  case inr.inr.inr => exact ⟨congrArg BitVec.toNat hop, congrArg BitVec.toNat harg⟩
  all_goals exact ⟨congrArg BitVec.toNat hop, rfl⟩

/-- A legal word is the encoding of its command: the two have the same fields (R95, R96). -/
theorem encode_of_decode {w : Word} {i : Instr} (h : decode w = .legal i) : encode i = w := by
  obtain ⟨hop, harg⟩ := decode_legal_fields h
  obtain ⟨hop', harg'⟩ := encodedFields i (decode_legal_wellFormed h)
  exact eq_of_fields (BitVec.eq_of_toNat_eq (hop'.trans hop.symm)) (BitVec.eq_of_toNat_eq (harg'.trans harg.symm))

theorem not_wellFormed_of_bound_le {n : Nat} (hn : 2 ^ 28 ≤ n) {i : Instr} (hi : i = .setf n ∨ i = .tone n ∨ i = .sil n) :
    i.wellFormed = false := by
  obtain rfl | rfl | rfl := hi <;> exact decide_eq_false (Nat.not_lt.mpr hn)

end Sys2Proof

namespace Sys2Proof.Machine

/-- The assembler refuses a command whose operand is out of range (R97). -/
theorem assembleLine_of_not_wellFormed (cfg : Config) {line : List Char} {i : Instr} (hi : i.wellFormed = false)
    (hline : parseLine line = .ok (.command i)) : assembleLine cfg line = .error .operandRange := by
  simp [assembleLine, hline, AsmLine.wellFormed, hi]

/-- Settles O1: `decode_encode` is the round trip, injectivity follows from it, and an operand of 2^28 or more makes a command
ill-formed, which neither the decoder nor the assembler lets through. -/
theorem encodeDecodeRoundTrip : Obligations.EncodeDecodeRoundTrip := by
  refine ⟨fun n hn => ⟨encode_setf_toNat hn, encode_tone_toNat hn, encode_sil_toNat hn, encode_drain_toNat⟩,
    fun i => decode_encode, fun i j => encode_injective, fun n hn i hi => ⟨fun w hw => ?_, fun cfg line => ?_⟩⟩
  · simpa [not_wellFormed_of_bound_le hn hi] using decode_legal_wellFormed hw
  · exact assembleLine_of_not_wellFormed cfg (not_wellFormed_of_bound_le hn hi)

/-- Settles O2: the decoder's clauses are known opcode by opcode, the illegal ones through `illegalWord_iff_clause`; a legal word
is the encoding of its command (`encode_of_decode`). -/
theorem decodingIsTotalAndUnique : Obligations.DecodingIsTotalAndUnique := by
  intro w
  refine ⟨decode_of_op_one, decode_of_op_two, decode_of_op_three, fun ⟨hop, harg⟩ => decode_of_op_four hop harg,
    fun hnone => ?_, fun i h => ⟨decode_legal_wellFormed h, encode_of_decode h⟩⟩
  rw [← illegalWord_iff, illegalWord_iff_clause]
  obtain hop | hop | hop | hop | hop | hop := opcode_cases (opField w)
  · exact .inl hop
  · exact absurd (.inl hop) hnone
  · exact absurd (.inr (.inl hop)) hnone
  · exact absurd (.inr (.inr (.inl hop))) hnone
  · exact .inr (.inr ⟨hop, fun harg => hnone (.inr (.inr (.inr ⟨hop, harg⟩)))⟩)
  · exact .inr (.inl hop)

/-- Settles O5: eight words, decided one by one. -/
theorem writtenOutWordsDecode : Obligations.WrittenOutWordsDecode := by
  unfold Obligations.WrittenOutWordsDecode
  decide

/-- A plan of k preamble repetitions and one pair a bit has two commands for each, and DRAIN (R99). -/
theorem sendCommands_length (nt np k n0 n1 : Nat) (bits : List Bool) :
    (sendCommands nt np k n0 n1 bits).length = 2 * k + 2 * bits.length + 1 := by
  simp [sendCommands, syncCommands, bitCommands, List.length_flatMap, mul_comm, add_assoc]

/-- Settles O59: SEND's commands are the plan's by definition, each of them one `pushOp`. -/
theorem sendExpandsToThePlan : Obligations.SendExpandsToThePlan := by
  intro cfg nt np k n0 n1 bits
  refine ⟨rfl, ?_⟩
  rw [AsmLine.expand, List.length_map, sendCommands_length]

end Sys2Proof.Machine
end

section
/-! PROOFS. What every step keeps, and where a step stops (spec/10_state.md R47; spec/60_exceptions.md R209;
spec/70_reset_and_hazards.md R245). -/

namespace Sys2Proof.Machine

/-! The invariants (R47). -/

theorem runMove_inv {m : Move} {s t : State} (h : runMove m s = .next t) (hs : s.Inv) : t.Inv :=
  runMove_keeps (fun _ hi => resetBlock_inv hi) (fun avail _ hi => hostStep_inv hi avail)
    (fun _ _ _ hm hi => sinkStep_inv hi hm) (fun _ _ hm hi => engineStep_inv hi hm) h hs

/-- Settles O56: the moves of the single agents keep the invariant, so every move does (`runMove_inv`), on the state with or
without its head of the schedule. -/
theorem stepKeepsInvariant : Obligations.StepKeepsInvariant := by
  intro s t hs hstep
  obtain ⟨m, rest, -, hm⟩ | ⟨m, -, -, hm⟩ | rfl := step_cases hstep
  · exact runMove_inv hm (hs.environment s.hostQueue s.busLog rest)
  · exact runMove_inv hm hs
  · exact hs

/-- Settles O57: each clause of the invariant, decided in the one state. -/
theorem resetMeetsInvariant : Obligations.ResetMeetsInvariant := by
  unfold Obligations.ResetMeetsInvariant
  constructor <;> decide

/-! The fields that no move writes. -/

/-- The parameters (R5 to R9), the moves still to come and whether the Sink stalls for ever are the same. -/
def SameSetting (s t : State) : Prop :=
  t.cfg = s.cfg ∧ t.schedule = s.schedule ∧ t.sinkStalled = s.sinkStalled

theorem SameSetting.refl (s : State) : SameSetting s s := ⟨rfl, rfl, rfl⟩

theorem SameSetting.trans {s t u : State} (h : SameSetting s t) (h' : SameSetting t u) : SameSetting s u :=
  ⟨h'.1.trans h.1, h'.2.1.trans h.2.1, h'.2.2.trans h.2.2⟩

theorem writeReg_sameSetting {avail : Bool} {r : Reg} {v : Word} {s t : State} (h : writeReg avail r v s = some t) :
    SameSetting s t := by
  have hirq : SameSetting s (writeIrqStatus v s) := by
    rw [writeIrqStatus_eq]
    exact .refl s
  obtain rfl | ⟨-, -, rfl⟩ | ⟨-, -, -, -, -, -, rfl⟩ | ⟨-, -, -, -, -, -, rfl⟩ | ⟨-, -, -, -, rfl⟩ | ⟨-, rfl⟩ | ⟨-, rfl⟩ |
    ⟨-, -, rfl⟩ := writeReg_cases h
  case inr.inr.inr.inr.inr.inl => exact hirq
  all_goals exact ⟨rfl, rfl, rfl⟩

theorem hostStep_sameSetting (avail : Bool) (s : State) : SameSetting s (hostStep avail s) := by
  obtain ⟨u, q, l, hu, hc⟩ := hostStep_cases avail s
  rw [hu]
  obtain rfl | ⟨g, v, -, hw⟩ := hc
  · exact ⟨rfl, rfl, rfl⟩
  · exact (writeReg_sameSetting hw).trans ⟨rfl, rfl, rfl⟩

theorem sinkStep_sameSetting {m : SinkMove} {s t : State} (h : sinkStep m s = .next t) : SameSetting s t := by
  cases m with
  | transfer ready fail =>
    obtain rfl : sinkTransfer ready fail s = t := by simpa [sinkStep] using h
    obtain hk | ⟨_, _, -, -, -, -, hk⟩ | ⟨-, -, -, hk⟩ := sinkTransfer_cases ready fail s <;> rw [hk]
    all_goals exact ⟨rfl, rfl, rfl⟩
  | drainAck =>
    obtain rfl : sinkDrainAck s = t := by simpa [sinkStep] using h
    obtain hk | ⟨-, -, hk⟩ := sinkDrainAck_cases s <;> rw [hk]
    all_goals exact ⟨rfl, rfl, rfl⟩
  | halfFrame => cases h

/-- What a command may change, said once: FREQ, ACC, REM, SEGMENTS, STATE and DREQ (R116 to R118, R142). -/
theorem exec_frame {i : Instr} {s t : State} (h : exec i s = .next t) :
    t = { s with
      freq := t.freq
      acc := t.acc
      remain := t.remain
      segments := t.segments
      engine := t.engine
      dreq := t.dreq } := by
  cases i <;> obtain rfl := Host.Outcome.next.inj h
  case setf => rfl
  case drain => rfl
  all_goals rw [startSegment_eq]

/-- What a sample step may change, said once, with the sample it pushes (R119 to R121). -/
theorem toneSample_eq (s : State) :
    toneSample s =
      { s with
        outFifo := s.outFifo ++ [currentSample s]
        acc := (advancePhase s).acc
        remain := s.remain - 1#28
        segments := if s.remain - 1#28 = 0#28 then s.segments + 1#32 else s.segments
        engine := if s.remain - 1#28 = 0#28 then .ready else s.engine } := by
  rw [toneSample, countSample_eq]
  rfl

theorem silSample_eq (s : State) :
    silSample s =
      { s with
        outFifo := s.outFifo ++ [0#16]
        remain := s.remain - 1#28
        segments := if s.remain - 1#28 = 0#28 then s.segments + 1#32 else s.segments
        engine := if s.remain - 1#28 = 0#28 then .ready else s.engine } := by
  rw [silSample, countSample_eq]
  rfl

theorem engineStep_sameSetting {s t : State} (h : engineStep s = .next t) : SameSetting s t := by
  obtain rfl | ⟨-, w, rest, -, ⟨i, -, hx⟩ | ⟨-, rfl⟩⟩ | ⟨-, -, rfl⟩ | ⟨-, -, rfl⟩ | ⟨-, -, rfl⟩ := engineStep_cases h
  · exact .refl t
  · rw [exec_frame hx]
    exact ⟨rfl, rfl, rfl⟩
  · exact ⟨rfl, rfl, rfl⟩
  · rw [toneSample_eq]
    exact ⟨rfl, rfl, rfl⟩
  · rw [silSample_eq]
    exact ⟨rfl, rfl, rfl⟩
  · exact ⟨rfl, rfl, rfl⟩

theorem runMove_sameSetting {m : Move} {s t : State} (h : runMove m s = .next t) : SameSetting s t :=
  runMove_keeps (P := SameSetting s) (fun _ hu => hu.trans ⟨rfl, rfl, rfl⟩)
    (fun avail u hu => hu.trans (hostStep_sameSetting avail u)) (fun _ _ _ hm hu => hu.trans (sinkStep_sameSetting hm))
    (fun _ _ hm hu => hu.trans (engineStep_sameSetting hm)) h (.refl s)

/-- Settles O58: no agent's move writes the parameters, so no move does (`runMove_sameSetting`). -/
theorem parametersNeverChange : Obligations.ParametersNeverChange := by
  intro s t hstep
  obtain ⟨_, _, -, hm⟩ | ⟨_, -, -, hm⟩ | rfl := step_cases hstep
  · exact (runMove_sameSetting hm).1
  · exact (runMove_sameSetting hm).1
  · rfl

/-! The refusals (R185, R209). -/

theorem sinkStep_refused {m : SinkMove} {s : State} {r : Refusal} (h : sinkStep m s = .refused r) :
    m = .halfFrame ∧ r = .halfFrame := by
  cases m <;> cases h
  exact ⟨rfl, rfl⟩

theorem clockStep_refused {e : ClockEvents} {s : State} {r : Refusal} (h : clockStep e s = .refused r) :
    e.sink = some .halfFrame ∧ r = .halfFrame := by
  simp only [clockStep, andThen] at h
  split at h
  · split at h
    · obtain ⟨t, ht⟩ := engineStep_next ‹State›
      cases ht.symm.trans h
    · cases h
  · cases h
  · rename_i hsink
    cases hk : e.sink with
    | none => simp [sinkEvent, hk] at hsink
    | some m =>
      obtain ⟨rfl, rfl⟩ := sinkStep_refused (by simpa [sinkEvent, hk] using hsink)
      exact ⟨rfl, by simpa using h.symm⟩

/-- A refused move, said once. -/
theorem runMove_refused {m : Move} {s : State} {r : Refusal} (h : runMove m s = .refused r) :
    (r = .secondHost ∧ ∃ op, m = .otherHost op) ∨
      (r = .halfFrame ∧ (m = .sink .halfFrame ∨ ∃ e : ClockEvents, m = .clock e ∧ e.sink = some .halfFrame)) := by
  cases m with
  | reset => cases h
  | host avail => cases h
  | sink k =>
    obtain ⟨rfl, rfl⟩ := sinkStep_refused h
    exact .inr ⟨rfl, .inl rfl⟩
  | engine =>
    obtain ⟨t, ht⟩ := engineStep_next s
    cases ht.symm.trans h
  | clock e =>
    obtain ⟨he, rfl⟩ := clockStep_refused h
    exact .inr ⟨rfl, .inr ⟨e, rfl, he⟩⟩
  | otherHost op =>
    cases h
    exact .inl ⟨rfl, op, rfl⟩

/-- Without a scheduled move the step is the eager move, which is none of the refused ones. -/
theorem step_ne_refused_of_unscheduled {s : State} (hs : s.schedule = []) (r : Refusal) : step s ≠ .refused r := by
  intro h
  simp only [step, hs] at h
  split at h
  · rename_i m hm
    obtain ⟨-, rfl, -⟩ | ⟨-, rfl, -⟩ | ⟨-, rfl, -⟩ | ⟨-, -, rfl, -⟩ := eagerMove_cases hm <;>
      simpa using runMove_refused h
  · split at h <;> cases h

/-- Settles O50: a refused step runs a scheduled move, one of those of `runMove_refused`. -/
theorem refusalsOnlyWhereTheSpecRefuses : Obligations.RefusalsOnlyWhereTheSpecRefuses := by
  intro s r h
  cases hs : s.schedule with
  | nil => exact absurd h (step_ne_refused_of_unscheduled hs r)
  | cons m rest =>
    rw [step_of_schedule hs] at h
    exact ⟨m, rest, rfl, runMove_refused h⟩

/-! The stuck states (R245). -/

theorem step_eq_fault_iff (s : State) (r : Fault) :
    step s = .fault r ↔ s.schedule = [] ∧ s.engine ≠ .off ∧ s.noMove := by
  cases r
  rw [← eagerMove_none]
  cases hs : s.schedule with
  | cons m rest => simp [step_of_schedule hs, runMove_ne_fault]
  | nil =>
    simp only [step, hs, true_and]
    cases hm : eagerMove s with
    | some m => simp [runMove_ne_fault]
    | none => by_cases he : s.engine = .off <;> simp [he]

/-- In a run that meets the invariant, with a Sink that moves, every state but READY with nothing left to do lets an agent
move: a segment has room in an empty OutFifo, and a drain is requested or acknowledged there. -/
theorem noMove_iff_of_inv {s : State} (hi : s.Inv) (hsink : s.sinkStalled = false) :
    s.engine ≠ .off ∧ s.noMove ↔ s.engine = .ready ∧ s.cmdFifo = [] ∧ s.outFifo = [] ∧ s.hostQueue = [] := by
  obtain ⟨hcmd, hout⟩ := depths_pos_of_wf hi.params
  constructor
  · rintro ⟨hoff, hs, he, hh⟩
    have hempty : s.outFifo = [] := by
      by_contra hne
      exact hs ⟨hsink, .inl ⟨hoff, hne⟩⟩
    have hready : s.engine = .ready := by
      have hsegment : ¬ (s.engine = .tone ∨ s.engine = .sil) := fun hk =>
        he (.inr (.inl ⟨hk, hi.segment.mp hk, by simpa [hempty] using hout⟩))
      have hdrain : s.engine ≠ .drain := fun hk => by
        cases hd : s.dreq with
        | false => exact he (.inr (.inr ⟨hk, hd, hempty⟩))
        | true => exact hs ⟨hsink, .inr ⟨hk, hd⟩⟩
      cases hk : s.engine <;> simp_all
    have hqueue : s.cmdFifo = [] := by
      by_contra hne
      exact he (.inl ⟨hready, hne⟩)
    have hhost : s.hostQueue = [] := by
      by_contra hne
      exact hh ⟨hne, fun hheld => hheld.2.2 (by simpa [hqueue] using hcmd)⟩
    exact ⟨hready, hqueue, hempty, hhost⟩
  · rintro ⟨he, hq, ho, hh⟩
    simp [he, hq, ho, hh, State.noMove, State.sinkCanMove, State.engineCanMove, State.hostCanMove]

/-- Settles O49: `step_eq_fault_iff`, and what it says in a state that meets the invariant. -/
theorem stuckExactlyWhenNoAgentCanMove : Obligations.StuckExactlyWhenNoAgentCanMove :=
  ⟨step_eq_fault_iff, fun s r hi hsink => by rw [step_eq_fault_iff, noMove_iff_of_inv hi hsink]⟩

end Sys2Proof.Machine
end

section
/-! PROOFS. What one agent's move can do, case by case, and what follows from it for the fields it concerns
(spec/00_scope.md R13; spec/10_state.md R36, R37, R42; spec/20_memory.md R71, R72, R76; spec/60_exceptions.md R198;
spec/70_reset_and_hazards.md R245). -/

namespace Sys2Proof.Machine

/-! The cases. -/

/-- The effect of one agent's move on everything but the host's program and its answers, one case for each rule. -/
inductive AgentStep (s : State) : Move → State → Prop
  | idle (m : Move) : AgentStep s m s
  | reset : AgentStep s .reset (resetBlock s)
  | softReset {avail : Bool} {v : Word} (hw : s.hostWrites 0x0C v) (h1 : v.getLsbD 1 = true) :
    AgentStep s (.host avail) (resetBlock s)
  | start {v : Word} (hw : s.hostWrites 0x0C v) (h0 : v.getLsbD 0 = true) (he : s.engine = .off) (hc : s.code = .none) :
    AgentStep s (.host true) (startRun s)
  | noDevice {v : Word} (hw : s.hostWrites 0x0C v) (he : s.engine = .off) (hc : s.code = .none) :
    AgentStep s (.host false) (fatal .deviceUnavailable 0#32 s)
  | abort {avail : Bool} {v : Word} (hw : s.hostWrites 0x0C v) (h1 : v.getLsbD 1 = false) (h0 : v.getLsbD 0 = false)
    (he : s.engine ≠ .off) : AgentStep s (.host avail) (closeRun .aborted { s with cmdFifo := [] })
  | irqStatus {avail : Bool} {v : Word} (hw : s.hostWrites 0x14 v) : AgentStep s (.host avail) (writeIrqStatus v s)
  | irqEnable {avail : Bool} {v : Word} (hw : s.hostWrites 0x18 v) : AgentStep s (.host avail) (writeIrqEnable v s)
  | push {avail : Bool} {w : Word} (hw : s.hostWrites 0x24 w) : AgentStep s (.host avail) (pushCmd w s)
  | accept {f : Sample} {rest : List Sample} (he : s.engine ≠ .off) (hf : s.outFifo = f :: rest) :
    AgentStep s (.sink (.transfer true false)) (acceptFrame f rest s)
  | reject {ready : Bool} (he : s.engine ≠ .off) (hf : s.outFifo ≠ []) :
    AgentStep s (.sink (.transfer ready true)) (rejectFrame s)
  | complete (he : s.engine = .drain) (hd : s.dreq = true) : AgentStep s (.sink .drainAck) (drainComplete s)
  | command {w : Word} {rest : List Word} {i : Instr} {t : State} (he : s.engine = .ready) (hq : s.cmdFifo = w :: rest)
    (hw : decode w = .legal i) (hx : exec i { s with cmdFifo := rest } = .next t) : AgentStep s .engine t
  | illegal {w : Word} {rest : List Word} (he : s.engine = .ready) (hq : s.cmdFifo = w :: rest)
    (hw : illegalWord w = true) : AgentStep s .engine (fatal .illegalCommand w { s with cmdFifo := rest })
  | toneSample (he : s.engine = .tone) : AgentStep s .engine (toneSample s)
  | silSample (he : s.engine = .sil) : AgentStep s .engine (silSample s)
  | request (he : s.engine = .drain) : AgentStep s .engine (drainRequest s)

theorem agentStep_of_writeReg {avail : Bool} {r : Reg} {v : Word} {s t : State} (hw : s.hostWrites r.offset v)
    (h : writeReg avail r v s = some t) : AgentStep s (.host avail) t := by
  obtain rfl | ⟨rfl, h1, rfl⟩ | ⟨rfl, -, h0, he, hc, rfl, rfl⟩ | ⟨rfl, -, -, he, hc, rfl, rfl⟩ | ⟨rfl, h1, h0, he, rfl⟩ |
    ⟨rfl, rfl⟩ | ⟨rfl, rfl⟩ | ⟨rfl, -, rfl⟩ := writeReg_cases h
  · exact .idle _
  · exact .softReset hw h1
  · exact .start hw h0 he hc
  · exact .noDevice hw he hc
  · exact .abort hw h1 h0 he
  · exact .irqStatus hw
  · exact .irqEnable hw
  · exact .push hw

/-- Each move of one agent is one of the cases, beside the host's program and its answers. -/
theorem agentStep_of_runMove {m : Move} {s t : State} (hm : m.single = true) (h : runMove m s = .next t) :
    ∃ u q l, AgentStep s m u ∧ t = { u with hostQueue := q, busLog := l } := by
  obtain ⟨q, l, ht⟩ | ⟨rfl, rfl⟩ | ⟨avail, u, q, l, g, v, rfl, hw, hu, rfl⟩ | ⟨f, rest, rfl, he, hf, rfl⟩ |
    ⟨ready, rfl, he, hf, rfl⟩ | ⟨rfl, he, hd, rfl⟩ | ⟨rfl, hengine⟩ := runMove_single hm h
  · exact ⟨s, q, l, .idle m, ht⟩
  · exact ⟨_, _, _, .reset, rfl⟩
  · exact ⟨u, q, l, agentStep_of_writeReg hw hu, rfl⟩
  · exact ⟨_, _, _, .accept he hf, rfl⟩
  · exact ⟨_, _, _, .reject he hf, rfl⟩
  · exact ⟨_, _, _, .complete he hd, rfl⟩
  obtain ⟨he, w, rest, hq, ⟨i, hw, hx⟩ | ⟨hw, rfl⟩⟩ | ⟨he, -, rfl⟩ | ⟨he, -, rfl⟩ | ⟨he, -, rfl⟩ := hengine
  · exact ⟨t, _, _, .command he hq hw hx, rfl⟩
  · exact ⟨_, _, _, .illegal he hq hw, rfl⟩
  · exact ⟨_, _, _, .toneSample he, rfl⟩
  · exact ⟨_, _, _, .silSample he, rfl⟩
  · exact ⟨_, _, _, .request he, rfl⟩

/-! The fields of the states that are not named updates. -/

theorem exec_cmdFifo {i : Instr} {s t : State} (h : exec i s = .next t) : t.cmdFifo = s.cmdFifo := by rw [exec_frame h]
theorem exec_outFifo {i : Instr} {s t : State} (h : exec i s = .next t) : t.outFifo = s.outFifo := by rw [exec_frame h]
theorem exec_samples {i : Instr} {s t : State} (h : exec i s = .next t) : t.samples = s.samples := by rw [exec_frame h]
theorem exec_sinkLog {i : Instr} {s t : State} (h : exec i s = .next t) : t.sinkLog = s.sinkLog := by rw [exec_frame h]

/-- A command leaves STATE as it is or goes to TONE, SIL or DRAIN: it never ends the run. -/
theorem exec_engine_ne_off {i : Instr} {s t : State} (h : exec i s = .next t) (he : s.engine = .ready) :
    t.engine ≠ .off := by
  cases i <;> obtain rfl := Host.Outcome.next.inj h
  case setf => simp [he]
  case drain => simp
  all_goals
    rw [startSegment_eq]
    split <;> simp [he]

/-- Only SETF writes FREQ (R116 to R118, R142). -/
theorem exec_freq {i : Instr} {s t : State} (h : exec i s = .next t) :
    t.freq = s.freq ∨ ∃ f, i = .setf f ∧ t.freq = operand28 f := by
  cases i <;> obtain rfl := Host.Outcome.next.inj h
  case setf f => exact .inr ⟨f, rfl, rfl⟩
  case drain => exact .inl rfl
  all_goals exact .inl (by rw [startSegment_eq])

@[simp] theorem toneSample_freq (s : State) : (toneSample s).freq = s.freq := by rw [toneSample_eq]
@[simp] theorem toneSample_cmdFifo (s : State) : (toneSample s).cmdFifo = s.cmdFifo := by rw [toneSample_eq]
@[simp] theorem toneSample_outFifo (s : State) : (toneSample s).outFifo = s.outFifo ++ [currentSample s] := by rw [toneSample_eq]
@[simp] theorem toneSample_samples (s : State) : (toneSample s).samples = s.samples := by rw [toneSample_eq]
@[simp] theorem toneSample_sinkLog (s : State) : (toneSample s).sinkLog = s.sinkLog := by rw [toneSample_eq]

theorem toneSample_engine_ne_off {s : State} (he : s.engine = .tone) : (toneSample s).engine ≠ .off := by
  rw [toneSample_eq]
  split <;> simp [he]

@[simp] theorem silSample_freq (s : State) : (silSample s).freq = s.freq := by rw [silSample_eq]
@[simp] theorem silSample_cmdFifo (s : State) : (silSample s).cmdFifo = s.cmdFifo := by rw [silSample_eq]
@[simp] theorem silSample_outFifo (s : State) : (silSample s).outFifo = s.outFifo ++ [0#16] := by rw [silSample_eq]
@[simp] theorem silSample_samples (s : State) : (silSample s).samples = s.samples := by rw [silSample_eq]
@[simp] theorem silSample_sinkLog (s : State) : (silSample s).sinkLog = s.sinkLog := by rw [silSample_eq]

theorem silSample_engine_ne_off {s : State} (he : s.engine = .sil) : (silSample s).engine ≠ .off := by
  rw [silSample_eq]
  split <;> simp [he]

@[simp] theorem writeIrqStatus_engine (v : Word) (s : State) : (writeIrqStatus v s).engine = s.engine := by
  rw [writeIrqStatus_eq]
@[simp] theorem writeIrqStatus_freq (v : Word) (s : State) : (writeIrqStatus v s).freq = s.freq := by rw [writeIrqStatus_eq]
@[simp] theorem writeIrqStatus_cmdFifo (v : Word) (s : State) : (writeIrqStatus v s).cmdFifo = s.cmdFifo := by
  rw [writeIrqStatus_eq]
@[simp] theorem writeIrqStatus_outFifo (v : Word) (s : State) : (writeIrqStatus v s).outFifo = s.outFifo := by
  rw [writeIrqStatus_eq]
@[simp] theorem writeIrqStatus_dreq (v : Word) (s : State) : (writeIrqStatus v s).dreq = s.dreq := by
  rw [writeIrqStatus_eq]
@[simp] theorem writeIrqStatus_samples (v : Word) (s : State) : (writeIrqStatus v s).samples = s.samples := by
  rw [writeIrqStatus_eq]
@[simp] theorem writeIrqStatus_sinkLog (v : Word) (s : State) : (writeIrqStatus v s).sinkLog = s.sinkLog := by
  rw [writeIrqStatus_eq]

@[simp] theorem rejectFrame_engine (s : State) : (rejectFrame s).engine = .off := rfl
@[simp] theorem rejectFrame_freq (s : State) : (rejectFrame s).freq = s.freq := rfl
@[simp] theorem rejectFrame_outFifo (s : State) : (rejectFrame s).outFifo = [] := rfl
@[simp] theorem rejectFrame_samples (s : State) : (rejectFrame s).samples = s.samples := rfl
@[simp] theorem rejectFrame_sinkLog (s : State) : (rejectFrame s).sinkLog = s.sinkLog := rfl

/-! SAMPLES (R37). -/

/-- Settles O53: an accepted frame is logged and counted, no other case writes SinkLog, and the three resets of SAMPLES are the
cases `reset`, `softReset` and `start`. -/
theorem samplesCountAcceptedFrames : Obligations.SamplesCountAcceptedFrames := by
  intro s t m hm hstep
  obtain ⟨u, q, l, hu, rfl⟩ := agentStep_of_runMove hm (step_scheduled m s ▸ hstep)
  cases hu with
  | reset => exact .inr ⟨rfl, rfl, .inl rfl⟩
  | softReset hw h1 => exact .inr ⟨rfl, rfl, .inr ⟨_, _, rfl, hw, .inl h1⟩⟩
  | start hw h0 he hc => exact .inr ⟨rfl, rfl, .inr ⟨_, _, rfl, hw, .inr ⟨h0, he, rfl⟩⟩⟩
  | accept he hf => exact .inl (by simp)
  | command he hq hw hx => exact .inl (by simp [exec_samples hx, exec_sinkLog hx])
  | _ => exact .inl (by simp)

/-! FREQ (R36). -/

theorem operand28_toNat {n : Nat} (h : n < operandBound) : (operand28 n).toNat = n :=
  (BitVec.toNat_ofNat n 28).trans (Nat.mod_eq_of_lt h)

/-- Settles O54: the two resets and SETF write FREQ; in the other cases it is the old one. -/
theorem freqChangesOnlyBySetf : Obligations.FreqChangesOnlyBySetf := by
  intro s t m hm hstep hne
  obtain ⟨u, q, l, hu, rfl⟩ := agentStep_of_runMove hm (step_scheduled m s ▸ hstep)
  cases hu with
  | reset => exact .inr ⟨rfl, rfl, .inl rfl⟩
  | softReset hw h1 => exact .inr ⟨rfl, rfl, .inr ⟨_, _, rfl, hw, h1⟩⟩
  | @command w rest i _ he hq hw hx =>
    obtain hf | ⟨f, rfl, hf⟩ := exec_freq hx
    · exact absurd hf hne
    · have hlt : f < operandBound := of_decide_eq_true (decode_legal_wellFormed hw)
      exact .inl ⟨rfl, he, w, rest, f, hq, hw, (congrArg BitVec.toNat hf).trans (operand28_toNat hlt)⟩
  | _ => exact absurd (by simp) hne

/-! CmdFifo (R42, R71, R76). -/

/-- Settles O55: the engine takes the head in the case `command`, the host adds at the tail in the case `push`, and the cases that
clear CmdFifo all leave STATE = OFF. -/
theorem commandsStayInOrder : Obligations.CommandsStayInOrder := by
  intro s t m hm hstep
  obtain ⟨u, q, l, hu, rfl⟩ := agentStep_of_runMove hm (step_scheduled m s ▸ hstep)
  cases hu with
  | reset => exact .inr (.inr (.inr ⟨rfl, rfl, .inl rfl⟩))
  | softReset hw h1 => exact .inr (.inr (.inr ⟨rfl, rfl, .inr (.inr (.inr ⟨_, _, rfl, hw⟩))⟩))
  | noDevice hw he hc => exact .inr (.inr (.inr ⟨rfl, rfl, .inr (.inr (.inr ⟨_, _, rfl, hw⟩))⟩))
  | abort hw h1 h0 he => exact .inr (.inr (.inr ⟨rfl, rfl, .inr (.inr (.inr ⟨_, _, rfl, hw⟩))⟩))
  | push hw => exact .inr (.inr (.inl ⟨_, _, rfl, hw, rfl⟩))
  | reject he hf => exact .inr (.inr (.inr ⟨rfl, rfl, .inr (.inr (.inl ⟨_, rfl⟩))⟩))
  | @command w rest i _ he hq hw hx => exact .inr (.inl ⟨rfl, he, w, by rw [hq, exec_cmdFifo hx]⟩)
  | illegal he hq hw => exact .inr (.inr (.inr ⟨rfl, rfl, .inr (.inl ⟨rfl, rfl⟩)⟩))
  | _ => exact .inl (by simp)

/-! The error latch (R198). -/

/-- A write that would enable changes nothing while an error is latched (R198). -/
theorem step_enable_of_latched {s : State} (hc : s.code ≠ .none) (avail : Bool) {v : Word} (h1 : v.getLsbD 1 = false)
    (h0 : v.getLsbD 0 = true) :
    step ((s.hostNext (mmioWrite s.cfg 0x0C v)).scheduled (.host avail)) = .next (answer .writeDone s) := by
  rw [step_ctrlWrite, writeCtrl_of_enable h1 h0, enable_of_latched hc]

/-- Settles O39: with STATE = OFF and an error latched the cases of a run and of an enable cannot happen; of the rest a reset,
an SRST and a write to IRQ_STATUS may clear the latch. -/
theorem errorLatchHeldUntilCleared : Obligations.ErrorLatchHeldUntilCleared := by
  intro s hi hc
  have hoff := hi.latched hc
  have herr := hi.err.mpr hc
  refine ⟨fun avail v h1 h0 => step_enable_of_latched hc avail h1 h0, fun m t hm hstep => ?_⟩
  obtain ⟨u, q, l, hu, rfl⟩ := agentStep_of_runMove hm (step_scheduled m s ▸ hstep)
  cases hu with
  | reset => exact .inr ⟨rfl, rfl, rfl, rfl, .inl rfl⟩
  | softReset hw h1 => exact .inr ⟨rfl, rfl, rfl, rfl, .inr ⟨_, _, rfl, h1, .inr hw⟩⟩
  | @irqStatus _ v hw =>
    rw [writeIrqStatus_eq]
    cases h1 : v.getLsbD 1 with
    | true => exact .inr ⟨rfl, rfl, rfl, hoff, .inr ⟨_, v, rfl, h1, .inl hw⟩⟩
    | false => exact .inl ⟨rfl, rfl, herr, hoff⟩
  | idle => exact .inl ⟨rfl, rfl, herr, hoff⟩
  | irqEnable hw => exact .inl ⟨rfl, rfl, herr, hoff⟩
  | push hw => exact .inl ⟨rfl, rfl, herr, hoff⟩
  | start _ _ _ hnone | noDevice _ _ hnone => exact absurd hnone hc
  | abort _ _ _ he | accept he _ | reject he _ => exact absurd hoff he
  | complete he _ | command he _ _ _ | illegal he _ _ | toneSample he | silSample he | request he => cases hoff.symm.trans he

/-! The ends of a run (R182, R245). -/

/-- Settles O51: of the cases that begin in a run, the first six leave STATE = OFF; a command and a sample step do not,
and the rest leave STATE as it is. -/
theorem runEndsOnlyInFourWays : Obligations.RunEndsOnlyInFourWays := by
  intro s t m hi hm hrun hstep hoff
  have hcode := hi.code_none hrun
  have hreset : (resetBlock s).runEnd = .reset := if_neg hrun
  obtain ⟨u, q, l, hu, rfl⟩ := agentStep_of_runMove hm (step_scheduled m s ▸ hstep)
  cases hu with
  | complete he hd => exact .inl ⟨rfl, he, hd, rfl, rfl, hcode⟩
  | @illegal w rest he hq hw => exact .inr (.inl ⟨rfl, he, w, rest, hq, hw, rfl, rfl, rfl, rfl, rfl⟩)
  | reject he hf => exact .inr (.inr (.inl ⟨_, rfl, hf, rfl, rfl, rfl, rfl, rfl⟩))
  | abort hw h1 h0 he => exact .inr (.inr (.inr (.inl ⟨_, _, rfl, hw, h1, h0, rfl, rfl, rfl, hcode, rfl, rfl, rfl⟩)))
  | reset => exact .inr (.inr (.inr (.inr ⟨.inl rfl, hreset, rfl, rfl, rfl, rfl, rfl, rfl⟩)))
  | softReset hw h1 =>
    exact .inr (.inr (.inr (.inr ⟨.inr ⟨_, _, rfl, hw, h1⟩, hreset, rfl, rfl, rfl, rfl, rfl, rfl⟩)))
  | command he hq hw hx => exact (exec_engine_ne_off hx he hoff).elim
  | toneSample he => exact (toneSample_engine_ne_off he hoff).elim
  | silSample he => exact (silSample_engine_ne_off he hoff).elim
  | start _ _ he _ | noDevice _ he _ => exact absurd he hrun
  | irqStatus hw => exact absurd ((writeIrqStatus_engine _ s).symm.trans hoff) hrun
  | idle | irqEnable | push | accept | request => exact absurd hoff hrun

end Sys2Proof.Machine
end

section
/-! PROOFS. The frames between the engine and the sink (spec/20_memory.md R72; spec/42_sample_datapath.md R174), across moves of
one agent and across clocks. -/

namespace Sys2Proof.Machine

/-! One agent. -/

/-- A segment is in progress: the states in which the engine generates samples. -/
def State.inSegment (s : State) : Prop := s.engine = .tone ∨ s.engine = .sil

theorem not_inSegment_of_off {s : State} (h : s.engine = .off) : ¬ s.inSegment := by
  simp [State.inSegment, h]

/-- From `s` to `t` the sink takes the frames at the front of OutFifo; the rest stay in front of `new`, or all are gone, which
`lost` allows. -/
def FramesFlow (s t : State) (new : List Sample) (lost : Prop) : Prop :=
  ∃ taken rest, s.outFifo = taken ++ rest ∧ t.sinkLog = s.sinkLog ++ taken ∧
    (t.outFifo = rest ++ new ∨ (t.outFifo = [] ∧ lost))

theorem FramesFlow.of_kept {s t : State} {new : List Sample} {lost : Prop} (hlog : t.sinkLog = s.sinkLog)
    (hout : t.outFifo = s.outFifo ++ new) : FramesFlow s t new lost :=
  ⟨[], s.outFifo, rfl, by simpa using hlog, .inl hout⟩

theorem FramesFlow.of_discarded {s t : State} {new : List Sample} {lost : Prop} (hlog : t.sinkLog = s.sinkLog)
    (hout : t.outFifo = []) (hlost : lost) : FramesFlow s t new lost :=
  ⟨[], s.outFifo, rfl, by simpa using hlog, .inr ⟨hout, hlost⟩⟩

theorem FramesFlow.mono {s t : State} {new : List Sample} {lost lost' : Prop} (h : FramesFlow s t new lost)
    (hlost : lost → lost') : FramesFlow s t new lost' := by
  obtain ⟨taken, rest, hs, hlog, ht⟩ := h
  exact ⟨taken, rest, hs, hlog, ht.imp_right (And.imp_right hlost)⟩

/-- Frames are only generated where a segment is in progress. If frames are discarded on the way to `t` only where that is not
so, the flow goes on to `u` in order. -/
theorem FramesFlow.trans {s t u : State} {new : List Sample} {lost : Prop} (hst : FramesFlow s t [] (¬ t.inSegment))
    (htu : FramesFlow t u new lost) (hnew : new = [] ∨ t.inSegment) : FramesFlow s u new (lost ∨ ¬ t.inSegment) := by
  obtain ⟨taken, rest, hs, hlog, hkept | ⟨hempty, hnone⟩⟩ := hst <;> obtain ⟨taken', rest', ht, hlog', hu⟩ := htu
  · refine ⟨taken ++ taken', rest', ?_, ?_, hu.imp_right (And.imp_right .inl)⟩
    · rw [hs, List.append_assoc, ← ht, hkept, List.append_nil]
    · rw [hlog', hlog, List.append_assoc]
  · obtain ⟨rfl, rfl⟩ := List.append_eq_nil_iff.mp (ht.symm.trans hempty)
    obtain rfl := hnew.resolve_right hnone
    have hgone : u.outFifo = [] := by obtain hu | ⟨hu, -⟩ := hu <;> exact hu
    exact ⟨taken, rest, hs, by rw [hlog', hlog, List.append_nil], .inr ⟨hgone, .inr hnone⟩⟩

/-- One agent's frames: only the engine generates any, in a segment, and only the end of a run discards any. -/
theorem AgentStep.framesFlow {s t : State} {m : Move} (h : AgentStep s m t) :
    ∃ new, FramesFlow s t new (t.engine = .off) ∧ (new = [] ∨ (m = .engine ∧ s.inSegment)) := by
  cases h with
  | @accept f rest he hf => exact ⟨[], ⟨[f], rest, hf, rfl, .inl (by simp)⟩, .inl rfl⟩
  | toneSample he => exact ⟨[currentSample s], .of_kept (by simp) (by simp), .inr ⟨rfl, .inl he⟩⟩
  | silSample he => exact ⟨[0#16], .of_kept (by simp) (by simp), .inr ⟨rfl, .inr he⟩⟩
  | command he hq hw hx => exact ⟨[], .of_kept (by rw [exec_sinkLog hx]) (by simp [exec_outFifo hx]), .inl rfl⟩
  | irqStatus hw => exact ⟨[], .of_kept (by simp) (by simp), .inl rfl⟩
  | idle | start | irqEnable | push | request => exact ⟨[], .of_kept rfl (by simp), .inl rfl⟩
  | reset | softReset | noDevice | abort | reject | complete | illegal => exact ⟨[], .of_discarded rfl rfl rfl, .inl rfl⟩

/-- Only the engine starts a segment. -/
theorem AgentStep.inSegment {s t : State} {m : Move} (h : AgentStep s m t) (hm : m ≠ .engine) (ht : t.inSegment) :
    s.inSegment := by
  cases h with
  | idle => exact ht
  | irqStatus hw => simpa [State.inSegment] using ht
  | irqEnable hw => exact ht
  | push hw => exact ht
  | accept he hf => exact ht
  | start hw h0 he hc => simp [State.inSegment] at ht
  | reset | softReset | noDevice | abort | reject | complete => exact absurd ht (not_inSegment_of_off rfl)
  | command | illegal | toneSample | silSample | request => exact absurd rfl hm

/-! Several events of one clock. -/

/-- From `s` to `t` no frame is generated and no segment begun; where frames are discarded none is in progress. -/
def HandsOver (s t : State) : Prop := (t.inSegment → s.inSegment) ∧ FramesFlow s t [] (¬ t.inSegment)

theorem HandsOver.refl (s : State) : HandsOver s s := ⟨id, .of_kept rfl (by simp)⟩

theorem HandsOver.trans {s t u : State} (hst : HandsOver s t) (htu : HandsOver t u) : HandsOver s u :=
  ⟨hst.1 ∘ htu.1, (hst.2.trans htu.2 (.inl rfl)).mono fun h => h.elim id (mt htu.1)⟩

theorem AgentStep.handsOver {s t : State} {m : Move} (h : AgentStep s m t) (hm : m ≠ .engine) : HandsOver s t := by
  obtain ⟨new, hflow, hnew⟩ := h.framesFlow
  obtain rfl := hnew.resolve_right fun hengine => hm hengine.1
  exact ⟨h.inSegment hm, hflow.mono not_inSegment_of_off⟩

/-- A move of one agent but the engine hands frames over. -/
theorem handsOver_of_runMove {m : Move} {s t : State} (hm : m.single = true) (hne : m ≠ .engine)
    (h : runMove m s = .next t) : HandsOver s t := by
  obtain ⟨u, q, l, hu, rfl⟩ := agentStep_of_runMove hm h
  exact hu.handsOver hne

/-- A clock, said once: its reset, host and sink events hand frames over, and the engine's step comes last (R203). -/
theorem handsOver_of_clockStep {e : ClockEvents} {s t : State} (h : clockStep e s = .next t) :
    ∃ u, HandsOver s u ∧ (t = u ∨ engineStep u = .next t) := by
  have hreset : HandsOver s (if e.reset then resetStep s else s) := by
    split
    · exact handsOver_of_runMove (m := .reset) rfl (by simp) rfl
    · exact .refl s
  simp only [clockStep] at h
  generalize (if e.reset then resetStep s else s) = u at h hreset
  have hhost : HandsOver u (if e.host then hostStep e.avail u else u) := by
    split
    · exact handsOver_of_runMove (m := .host e.avail) rfl (by simp) rfl
    · exact .refl u
  generalize (if e.host then hostStep e.avail u else u) = v at h hhost
  have hv := hreset.trans hhost
  cases hsink : sinkEvent e.sink v with
  | next w =>
    have hw : HandsOver v w := by
      cases hk : e.sink with
      | none =>
        obtain rfl : v = w := by simpa [sinkEvent, hk] using hsink
        exact .refl v
      | some k => exact handsOver_of_runMove (m := .sink k) rfl (by simp) (by simpa [sinkEvent, hk, runMove] using hsink)
    refine ⟨w, hv.trans hw, ?_⟩
    simp only [hsink, andThen] at h
    split at h
    · exact .inr h
    · exact .inl (by simpa using h.symm)
  | fault r => simp [hsink, andThen] at h
  | refused r => simp [hsink, andThen] at h

/-! The statement. -/

theorem framesFlow_of_single {m : Move} {s t : State} (hm : m.single = true) (h : runMove m s = .next t) :
    ∃ new, FramesFlow s t new True ∧ (new = [] ∨ s.inSegment) := by
  obtain ⟨u, q, l, hu, rfl⟩ := agentStep_of_runMove hm h
  obtain ⟨new, hflow, hnew⟩ := hu.framesFlow
  exact ⟨new, hflow.mono fun _ => trivial, hnew.imp_right And.right⟩

/-- Every move keeps the order of the frames; a clock may discard them and begin a new run. -/
theorem framesFlow_of_runMove {m : Move} {s t : State} (h : runMove m s = .next t) : ∃ new, FramesFlow s t new True := by
  cases m with
  | clock e =>
    obtain ⟨u, ⟨-, hu⟩, rfl | hengine⟩ := handsOver_of_clockStep h
    · exact ⟨[], hu.mono fun _ => trivial⟩
    · obtain ⟨new, hflow, hnew⟩ := framesFlow_of_single (m := .engine) rfl hengine
      exact ⟨new, (hu.trans hflow hnew).mono fun _ => trivial⟩
  | _ =>
    obtain ⟨new, hflow, -⟩ := framesFlow_of_single rfl h
    exact ⟨new, hflow⟩

theorem framesFlow_of_step {s t : State} (h : step s = .next t) : ∃ new, FramesFlow s t new True := by
  obtain ⟨m, rest, -, hm⟩ | ⟨m, -, -, hm⟩ | rfl := step_cases h
  · exact framesFlow_of_runMove (s := { s with schedule := rest }) hm
  · exact framesFlow_of_runMove hm
  · exact ⟨[], .of_kept rfl (by simp)⟩

/-- Settles O52: each agent's move keeps the order (`AgentStep.framesFlow`), and in a clock the engine, which alone generates
frames, comes last. -/
theorem framesStayInOrder : Obligations.FramesStayInOrder := by
  refine ⟨fun s t hstep => ?_, fun s t m hm hstep hrun => ?_⟩
  · obtain ⟨new, taken, rest, hs, hlog, hout | ⟨hout, -⟩⟩ := framesFlow_of_step hstep
    · exact ⟨taken, rest, hs, hlog, .inr ⟨new, hout⟩⟩
    · exact ⟨taken, rest, hs, hlog, .inl hout⟩
  · obtain ⟨u, q, l, hu, rfl⟩ := agentStep_of_runMove hm (step_scheduled m s ▸ hstep)
    obtain ⟨new, ⟨taken, rest, hs, hlog, hout | ⟨-, hoff⟩⟩, -⟩ := hu.framesFlow
    · exact ⟨taken, rest, new, hs, hlog, hout⟩
    · exact absurd hoff hrun

end Sys2Proof.Machine
end

section
/-! PROOFS. The events of one clock, one by one (spec/60_exceptions.md R203). No move reads the moves that follow it, so a
clock's moves can be performed before the rest of the schedule or out of it. -/

namespace Sys2Proof.Machine

/-! The schedule is no part of a move. -/

/-- The state with these moves still to come. -/
def State.withSchedule (q : List Move) (s : State) : State := { s with schedule := q }

/-- The outcome with these moves still to come. -/
def outcomeWithSchedule (q : List Move) (o : Host.Outcome State Fault Refusal) : Host.Outcome State Fault Refusal :=
  andThen o fun t => .next (t.withSchedule q)

theorem enable_withSchedule (q : List Move) (avail : Bool) (s : State) :
    enable avail (s.withSchedule q) = (enable avail s).withSchedule q := by
  simp only [enable, apply_ite (State.withSchedule q)]
  rfl

theorem abort_withSchedule (q : List Move) (s : State) : abort (s.withSchedule q) = (abort s).withSchedule q := by
  simp only [abort, apply_ite (State.withSchedule q)]
  rfl

theorem writeReg_withSchedule (q : List Move) (avail : Bool) (r : Reg) (v : Word) (s : State) :
    writeReg avail r v (s.withSchedule q) = (writeReg avail r v s).map (State.withSchedule q) := by
  cases r
  case ctrl =>
    simp only [writeReg, writeCtrl, enable_withSchedule, abort_withSchedule, Option.map_some, apply_ite (State.withSchedule q)]
    rfl
  case irqStatus =>
    simp only [writeReg, writeIrqStatus_eq, Option.map_some]
    rfl
  case cmd =>
    simp only [writeReg, writeCmd, apply_ite (Option.map (State.withSchedule q))]
    rfl
  all_goals rfl

theorem busWrite_withSchedule (q : List Move) (avail : Bool) (addr : Nat) (size : AccessSize) (lanes : Lanes) (s : State) :
    busWrite avail addr size lanes (s.withSchedule q) =
      (busWrite avail addr size lanes s).map (Prod.map (State.withSchedule q) id) := by
  simp only [busWrite, writeReg_withSchedule]
  rw [show (s.withSchedule q).cfg = s.cfg from rfl]
  cases busTarget s.cfg addr size with
  | outside => rfl
  | error => rfl
  | reg r =>
    cases wordOfLanes lanes with
    | none => rfl
    | some v => cases hw : writeReg avail r v s <;> simp [hw]

theorem readReg_withSchedule (q : List Move) (r : Reg) (s : State) : readReg r (s.withSchedule q) = readReg r s := by
  cases r <;> rfl

theorem busRead_withSchedule (q : List Move) (addr : Nat) (size : AccessSize) (s : State) :
    busRead addr size (s.withSchedule q) = busRead addr size s := by
  simp only [busRead, readReg_withSchedule]
  rfl

theorem hostPerform_withSchedule (q : List Move) (avail : Bool) (op : HostOp) (rest : List HostOp) (s : State) :
    hostPerform avail op rest (s.withSchedule q) = (hostPerform avail op rest s).withSchedule q := by
  cases op with
  | read addr size =>
    simp only [hostPerform, busRead_withSchedule]
    rfl
  | write addr size lanes =>
    simp only [hostPerform, busWrite_withSchedule]
    cases busWrite avail addr size lanes s <;> rfl
  | waitOff =>
    simp only [hostPerform, readReg_withSchedule, apply_ite (State.withSchedule q)]
    rfl

theorem hostStep_withSchedule (q : List Move) (avail : Bool) (s : State) :
    hostStep avail (s.withSchedule q) = (hostStep avail s).withSchedule q := by
  simp only [hostStep, show (s.withSchedule q).hostQueue = s.hostQueue from rfl]
  cases s.hostQueue with
  | nil => rfl
  | cons op rest => exact hostPerform_withSchedule q avail op rest s

theorem sinkStep_withSchedule (q : List Move) (m : SinkMove) (s : State) :
    sinkStep m (s.withSchedule q) = outcomeWithSchedule q (sinkStep m s) := by
  cases m with
  | transfer ready fail =>
    have h : sinkTransfer ready fail (s.withSchedule q) = (sinkTransfer ready fail s).withSchedule q := by
      simp only [sinkTransfer, show (s.withSchedule q).outFifo = s.outFifo from rfl]
      cases s.outFifo with
      | nil => simp
      | cons f rest => cases sinkOutcome ready fail with
        | none => simp
        | some o => cases o <;> simp only [apply_ite (State.withSchedule q)] <;> rfl
    exact congrArg Host.Outcome.next h
  | drainAck =>
    simp only [sinkStep, sinkDrainAck, outcomeWithSchedule, andThen, apply_ite (State.withSchedule q)]
    rfl
  | halfFrame => rfl

theorem exec_withSchedule (q : List Move) (i : Instr) (s : State) :
    exec i (s.withSchedule q) = outcomeWithSchedule q (exec i s) := by
  cases i
  case setf => rfl
  case drain => rfl
  all_goals
    simp only [exec, execTone, execSil, startSegment_eq]
    rfl

theorem engineStep_withSchedule (q : List Move) (s : State) :
    engineStep (s.withSchedule q) = outcomeWithSchedule q (engineStep s) := by
  simp only [engineStep, show (s.withSchedule q).engine = s.engine from rfl]
  cases s.engine with
  | off => rfl
  | ready =>
    simp only [decodeStep, show (s.withSchedule q).cmdFifo = s.cmdFifo from rfl]
    cases s.cmdFifo with
    | nil => rfl
    | cons w rest =>
      simp only [runWord]
      cases decode w with
      | legal i => exact exec_withSchedule q i { s with cmdFifo := rest }
      | illegal why => rfl
  | tone =>
    simp only [toneSample_eq, outcomeWithSchedule, andThen, apply_ite (State.withSchedule q)]
    rfl
  | sil =>
    simp only [silSample_eq, outcomeWithSchedule, andThen, apply_ite (State.withSchedule q)]
    rfl
  | drain =>
    simp only [outcomeWithSchedule, andThen, apply_ite (State.withSchedule q)]
    rfl

theorem runMove_withSchedule (q : List Move) {m : Move} (hm : m.single = true) (s : State) :
    runMove m (s.withSchedule q) = outcomeWithSchedule q (runMove m s) := by
  cases m with
  | reset => rfl
  | host avail => exact congrArg Host.Outcome.next (hostStep_withSchedule q avail s)
  | sink k => exact sinkStep_withSchedule q k s
  | engine => exact engineStep_withSchedule q s
  | clock e => cases hm
  | otherHost op => rfl

/-! A list of moves, out of the schedule. -/

/-- The moves of the list, one by one, up to the first that stops. -/
def runMoves : List Move → State → Host.Outcome State Fault Refusal
  | [], s => .next s
  | m :: ms, s => andThen (runMove m s) (runMoves ms)

theorem runMoves_append (l k : List Move) (s : State) : runMoves (l ++ k) s = andThen (runMoves l s) (runMoves k) := by
  induction l generalizing s with
  | nil => rfl
  | cons m ms ih =>
    simp only [List.cons_append, runMoves]
    cases runMove m s with
    | next t => exact ih t
    | fault r => rfl
    | refused r => rfl

theorem runMoves_of_one (m : Move) (s : State) : runMoves [m] s = runMove m s := by
  simp only [runMoves]
  cases runMove m s <;> rfl

/-- Scheduled moves of one agent are those moves: the rest of the schedule waits. -/
theorem run_withSchedule {ms : List Move} (hms : ∀ m ∈ ms, m.single = true) (q : List Move) (s : State) :
    Host.Core.run Sys2Proof.core ms.length (s.withSchedule (ms ++ q)) = runMoves ms (s.withSchedule q) := by
  induction ms generalizing s with
  | nil => rfl
  | cons m ms ih =>
    have hstep : step (s.withSchedule (m :: (ms ++ q))) = outcomeWithSchedule (ms ++ q) (runMove m s) :=
      runMove_withSchedule (ms ++ q) (hms m (by simp)) s
    rw [runMoves, runMove_withSchedule q (hms m (by simp)) s]
    simp only [List.length_cons, List.cons_append, Host.Core.run]
    rw [show Sys2Proof.core.step = step from rfl, hstep]
    cases runMove m s with
    | next t => exact ih (fun k hk => hms k (by simp [hk])) t
    | fault r => rfl
    | refused r => rfl

/-! The moves of a clock. -/

/-- The move of a clock's sink event, if any. -/
def sinkEventMoves : Option SinkMove → List Move
  | none => []
  | some m => [.sink m]

/-- A clock's moves, in the order of R203. -/
def ClockEvents.moves (e : ClockEvents) : List Move :=
  (if e.reset then [.reset] else []) ++ (if e.host then [.host e.avail] else []) ++ sinkEventMoves e.sink ++
    (if e.engine then [.engine] else [])

theorem ClockEvents.moves_single (e : ClockEvents) : ∀ m ∈ e.moves, m.single = true := by
  intro m hm
  simp only [ClockEvents.moves, List.mem_append] at hm
  have hevent : ∀ (b : Bool) (k : Move), k.single = true → m ∈ (if b then [k] else []) → m.single = true := by
    intro b k hk hmem
    cases b
    · cases hmem
    · exact List.mem_singleton.mp hmem ▸ hk
  obtain ((hm | hm) | hm) | hm := hm
  · exact hevent _ _ rfl hm
  · exact hevent _ _ rfl hm
  · cases hk : e.sink with
    | none => simp [hk, sinkEventMoves] at hm
    | some k =>
      obtain rfl : m = .sink k := by simpa [hk, sinkEventMoves] using hm
      rfl
  · exact hevent _ _ rfl hm

theorem runMoves_of_event (b : Bool) (m : Move) (s : State) :
    runMoves (if b then [m] else []) s = if b then runMove m s else .next s := by
  cases b
  · rfl
  · exact runMoves_of_one m s

theorem runMoves_of_sinkEvent (k : Option SinkMove) (s : State) :
    runMoves (sinkEventMoves k) s = sinkEvent k s := by
  cases k with
  | none => rfl
  | some m => exact runMoves_of_one (.sink m) s

theorem clockStep_eq_runMoves (e : ClockEvents) (s : State) : clockStep e s = runMoves e.moves s := by
  have hengine : (fun t => if e.engine then engineStep t else .next t) = runMoves (if e.engine then [.engine] else []) :=
    funext fun t => (runMoves_of_event e.engine .engine t).symm
  have hreset : runMoves (if e.reset then [.reset] else []) s = .next (if e.reset then resetStep s else s) := by
    rw [runMoves_of_event]
    split <;> rfl
  have hhost : ∀ t, runMoves (if e.host then [.host e.avail] else []) t = .next (if e.host then hostStep e.avail t else t) := by
    intro t
    rw [runMoves_of_event]
    split <;> rfl
  rw [ClockEvents.moves, runMoves_append, runMoves_append, runMoves_append, hreset, ← hengine]
  simp only [andThen, hhost, runMoves_of_sinkEvent, clockStep]

/-! A flag set in the clock of a write to IRQ_STATUS. -/

theorem hostStep_of_taken {avail : Bool} {r : Reg} {v : Word} {s t : State} (h : writeReg avail r v s = some t) :
    hostStep avail (s.hostNext (mmioWrite s.cfg r.offset v)) = answer .writeDone t :=
  Host.Outcome.next.inj (step_hostWrite_of_taken h)

/-- With STATE = OFF the engine's event of a clock changes nothing. -/
theorem engineEvent_of_off {s : State} (he : s.engine = .off) (b : Bool) :
    (if b then engineStep s else .next s) = .next s := by
  cases b
  · rfl
  · simp [engineStep, he]

/-- In a clock the host writes IRQ_STATUS and then the sink ends the run: what the sink sets stays (R203). -/
theorem step_irqStatus_then_sink {s u : State} {v : Word} {avail : Bool} {k : SinkMove} (engine : Bool)
    (hsink : sinkStep k (answer .writeDone (writeIrqStatus v s)) = .next u) (hoff : u.engine = .off) :
    step ((s.hostNext (mmioWrite s.cfg 0x14 v)).scheduled
      (.clock { reset := false, host := true, avail := avail, sink := some k, engine := engine })) = .next u := by
  have hhost : hostStep avail (s.hostNext (mmioWrite s.cfg 0x14 v)) = answer .writeDone (writeIrqStatus v s) :=
    hostStep_of_taken (r := .irqStatus) rfl
  rw [step_scheduled]
  simp only [runMove, clockStep, Bool.false_eq_true, if_false, if_true, hhost, sinkEvent, hsink, andThen,
    engineEvent_of_off hoff]

/-- Settles O48: a clock is `runMoves` of its moves (`clockStep_eq_runMoves`), and so is the run of these moves
(`run_withSchedule`). -/
theorem clockPerformsEventsInOrder : Obligations.ClockPerformsEventsInOrder := by
  refine ⟨fun s e => ?_, fun s v avail ready engine he hf => ?_, fun s v avail engine he hd => ?_⟩
  · exact (clockStep_eq_runMoves e s).trans (run_withSchedule e.moves_single s.schedule s).symm
  · refine ⟨_, step_irqStatus_then_sink engine (congrArg Host.Outcome.next (sinkTransfer_fail ready ?_ ?_)) rfl, rfl, rfl⟩
    · simpa using he
    · simpa using hf
  · refine ⟨_, step_irqStatus_then_sink engine (congrArg Host.Outcome.next (if_pos ⟨?_, ?_⟩)) rfl, rfl⟩
    · simpa using he
    · simpa using hd

end Sys2Proof.Machine
end

section
/-! PROOFS. A Sink that stalls for ever (spec/70_reset_and_hazards.md R243). -/

namespace Sys2Proof.Machine

/-! What can still move. -/

theorem step_of_eagerMove {s : State} {m : Move} (hq : s.schedule = []) (hm : eagerMove s = some m) :
    step s = runMove m s := by
  simp only [step, hq, hm]

/-- With the Sink stalled and nothing scheduled only the engine and the host move. -/
theorem step_of_stalled {s t : State} (hq : s.schedule = []) (hsink : s.sinkStalled = true) (h : step s = .next t) :
    t = s ∨ ∃ m : Move, m.single = true ∧ (∀ k, m ≠ .sink k) ∧ runMove m s = .next t := by
  obtain ⟨m, rest, hm, -⟩ | ⟨m, -, hm, ht⟩ | rfl := step_cases h
  · simp [hq] at hm
  · obtain ⟨hs, -⟩ | ⟨hs, -⟩ | ⟨-, rfl, -⟩ | ⟨-, -, rfl, -⟩ := eagerMove_cases hm
    · simp [hsink] at hs
    · simp [hsink] at hs
    · exact .inr ⟨.engine, rfl, by simp, ht⟩
    · exact .inr ⟨.host true, rfl, by simp, ht⟩
  · exact .inl rfl

/-- The Sink has done nothing from `s` to `t`: no frame is taken, and no run has ended DONE. -/
def SinkIdle (s t : State) : Prop :=
  t.sinkLog = s.sinkLog ∧ (t.irqDone = true → s.irqDone = true) ∧ (t.runEnd = .done → s.runEnd = .done)

theorem resetBlock_sinkIdle (s : State) : SinkIdle s (resetBlock s) := by
  refine ⟨rfl, by simp, ?_⟩
  simp only [resetBlock_runEnd]
  split <;> simp

theorem AgentStep.sinkIdle {s t : State} {m : Move} (h : AgentStep s m t) (hm : ∀ k, m ≠ .sink k) : SinkIdle s t := by
  cases h with
  | reset => exact resetBlock_sinkIdle s
  | softReset hw h1 => exact resetBlock_sinkIdle s
  | @irqStatus _ v hw =>
    rw [writeIrqStatus_eq]
    refine ⟨rfl, ?_, id⟩
    simp only
    split <;> simp
  | accept | reject | complete => exact absurd rfl (hm _)
  | command he hq hw hx =>
    rw [exec_frame hx]
    exact ⟨rfl, id, id⟩
  | toneSample he =>
    rw [toneSample_eq]
    exact ⟨rfl, id, id⟩
  | silSample he =>
    rw [silSample_eq]
    exact ⟨rfl, id, id⟩
  | idle | irqEnable | push | request => exact ⟨rfl, id, id⟩
  | start | noDevice | abort | illegal => exact ⟨rfl, id, by simp⟩

theorem sinkIdle_of_runMove {m : Move} {s t : State} (hm : m.single = true) (hne : ∀ k, m ≠ .sink k)
    (h : runMove m s = .next t) : SinkIdle s t := by
  obtain ⟨u, q, l, hu, rfl⟩ := agentStep_of_runMove hm h
  exact hu.sinkIdle hne

/-! The stuck states. -/

/-- The engine waits for the Sink: a sample is held on a full OutFifo, or a drain awaits a frame's transfer or its
acknowledgement. -/
def State.waitsForSink (s : State) : Prop :=
  ((s.engine = .tone ∨ s.engine = .sil) ∧ s.outFifo.length = s.cfg.outDepth) ∨
    (s.engine = .drain ∧ (s.outFifo ≠ [] ∨ s.dreq = true))

theorem not_sinkCanMove_of_stalled {s : State} (h : s.sinkStalled = true) : ¬ s.sinkCanMove := fun ⟨hs, _⟩ =>
  Bool.false_ne_true (hs.symm.trans h)

theorem State.waitsForSink.engine_ne_off {s : State} (h : s.waitsForSink) : s.engine ≠ .off := by
  obtain ⟨he | he, -⟩ | ⟨he, -⟩ := h <;> simp [he]

theorem State.waitsForSink.not_engineCanMove {s : State} (h : s.waitsForSink) : ¬ s.engineCanMove := by
  rintro (⟨hk, -⟩ | ⟨hk, -, hroom⟩ | ⟨hk, hd, ho⟩)
  · obtain ⟨he | he, -⟩ | ⟨he, -⟩ := h <;> simp [he] at hk
  · obtain ⟨-, hfull⟩ | ⟨he, -⟩ := h
    · omega
    · simp [he] at hk
  · obtain ⟨he | he, -⟩ | ⟨-, ho' | hd'⟩ := h
    · simp [he] at hk
    · simp [he] at hk
    · exact ho' ho
    · simp [hd] at hd'

/-- Where the engine waits for a stalled Sink, only a host step keeps the machine from being stuck (R245). -/
theorem step_stuck_of_waitsForSink {s : State} (hq : s.schedule = []) (hsink : s.sinkStalled = true) (h : s.waitsForSink)
    (hhost : ¬ s.hostCanMove) : step s = .fault .stuck :=
  (step_eq_fault_iff s .stuck).mpr
    ⟨hq, h.engine_ne_off, not_sinkCanMove_of_stalled hsink, h.not_engineCanMove, hhost⟩

/-- An abort is a host step, which comes where the Sink and the engine have none (R148). -/
theorem step_abort_of_waitsForSink {s : State} (hq : s.schedule = []) (hsink : s.sinkStalled = true) (h : s.waitsForSink)
    {v : Word} (h1 : v.getLsbD 1 = false) (h0 : v.getLsbD 0 = false) :
    step (s.hostNext (mmioWrite s.cfg 0x0C v)) =
      .next (answer .writeDone (closeRun .aborted { s with cmdFifo := [] })) := by
  have hmove : eagerMove (s.hostNext (mmioWrite s.cfg 0x0C v)) = some (.host true) := by
    have hs : eagerSinkMove (s.hostNext (mmioWrite s.cfg 0x0C v)) = none :=
      (eagerSinkMove_none _).mpr (not_sinkCanMove_of_stalled hsink)
    have he : engineEnabled (s.hostNext (mmioWrite s.cfg 0x0C v)) = false :=
      Bool.eq_false_iff.mpr fun hc => h.not_engineCanMove ((engineEnabled_iff _).mp hc)
    have hh : hostEnabled (s.hostNext (mmioWrite s.cfg 0x0C v)) = true := by
      rw [hostEnabled_iff]
      refine ⟨by simp, ?_⟩
      rintro ⟨⟨w, rest, hw⟩, -⟩
      simp [mmioWrite] at hw
    simp [eagerMove, hs, he, hh]
  have hwrite := step_ctrlWrite s true v
  rw [step_scheduled, writeCtrl_of_abort h1 h0, abort_of_running h.engine_ne_off] at hwrite
  exact (step_of_eagerMove (s := s.hostNext _) hq hmove).trans hwrite

/-- Settles O60: only the engine and the host move (`step_of_stalled`), and where the engine too waits for the Sink only the
host's steps are left. -/
theorem stalledSinkLeavesRunUnfinished : Obligations.StalledSinkLeavesRunUnfinished := by
  intro s hi hq hsink
  refine ⟨fun t hstep => ?_, fun hwait => ⟨fun hhost => ?_, fun w hfull => ?_, fun v h1 h0 => ?_⟩⟩
  · obtain ⟨⟨hlog, hdone, hend⟩, -, hsched, hstall⟩ : SinkIdle s t ∧ SameSetting s t := by
      obtain rfl | ⟨m, hm, hne, h⟩ := step_of_stalled hq hsink hstep
      · exact ⟨⟨rfl, id, id⟩, .refl t⟩
      · exact ⟨sinkIdle_of_runMove hm hne h, runMove_sameSetting h⟩
    exact ⟨hlog, hdone, hend, hsched.trans hq, hstall.trans hsink⟩
  · exact step_stuck_of_waitsForSink hq hsink hwait fun hc => hc.1 hhost
  · refine step_stuck_of_waitsForSink (s := s.hostNext _) hq hsink hwait fun hc => hc.2 ?_
    exact ⟨⟨w, s.hostQueue, rfl⟩, State.waitsForSink.engine_ne_off hwait, hfull.not_lt⟩
  · exact ⟨_, step_abort_of_waitsForSink hq hsink hwait h1 h0, rfl, rfl⟩

end Sys2Proof.Machine
end

section
/-! PROOFS. The commands' decode steps (spec/40_synthesis.md R116 to R118, R122; spec/41_stream_control.md R140 to R142). -/

namespace Sys2Proof.Machine

/-! What a command does, in the state's own fields. -/

theorem operand28_eq_zero_iff {n : Nat} (h : n < operandBound) : operand28 n = 0#28 ↔ n = 0 := by
  rw [← BitVec.toNat_inj, operand28_toNat h, BitVec.toNat_zero]

/-- A segment of no samples completes in its decode step (R122). -/
theorem startSegment_of_empty (k : EngineState) (s : State) :
    startSegment k 0#28 s = { s with acc := 0#24, segments := s.segments + 1#32 } := by
  rw [startSegment, if_pos rfl]

theorem startSegment_of_samples (k : EngineState) {n : Operand} (h : n ≠ 0#28) (s : State) :
    startSegment k n s = { s with acc := 0#24, remain := n, engine := k } := by
  rw [startSegment, if_neg h]

/-- The decode step of TONE and SIL, for an encodable operand (R117, R118). -/
theorem startSegment_cases (k : EngineState) {n : Nat} (h : n < 2 ^ 28) (s : State) :
    (n = 0 → startSegment k (operand28 n) s = { s with acc := 0#24, segments := s.segments + 1#32 }) ∧
    (n ≠ 0 → (startSegment k (operand28 n) s).remain.toNat = n ∧
      startSegment k (operand28 n) s =
        { s with acc := 0#24, remain := (startSegment k (operand28 n) s).remain, engine := k }) := by
  refine ⟨?_, fun hn => ?_⟩
  · rintro rfl
    exact startSegment_of_empty k s
  · rw [startSegment_of_samples k (mt (operand28_eq_zero_iff h).mp hn)]
    exact ⟨operand28_toNat h, rfl⟩

theorem toNat_zero_append {n : Nat} (k : Nat) (v : BitVec n) : (0#k ++ v).toNat = v.toNat := by
  rw [BitVec.toNat_append]
  simp

theorem readFreq_toNat (s : State) : (readReg .freq s).toNat = s.freq.toNat := toNat_zero_append 4 s.freq

/-- Settles O10: the step writes FREQ alone, and the register shows its 28 bits with four zeros above. -/
theorem setfSetsFrequency : Obligations.SetfSetsFrequency := by
  intro f s hf
  refine ⟨{ s with freq := operand28 f }, rfl, operand28_toNat hf, ?_, rfl⟩
  rw [readFreq_toNat]
  exact operand28_toNat hf

/-- Settles O11: `startSegment_cases` for TONE. -/
theorem toneStartsSegment : Obligations.ToneStartsSegment :=
  fun _ s hn => ⟨_, rfl, startSegment_cases .tone hn s⟩

/-- Settles O12: `startSegment_cases` for SIL. -/
theorem silStartsSegment : Obligations.SilStartsSegment :=
  fun _ s hn => ⟨_, rfl, startSegment_cases .sil hn s⟩

/-- Settles O14: by the definition of `execDrain`. -/
theorem drainStarts : Obligations.DrainStarts := fun _ => ⟨_, rfl, rfl⟩

/-- The engine's step in READY with a command at the head (R140). -/
theorem step_engine_of_encode {s : State} {i : Instr} {rest : List Word} (hi : i.wellFormed = true) (he : s.engine = .ready)
    (hq : s.cmdFifo = encode i :: rest) : step (s.scheduled .engine) = exec i { s with cmdFifo := rest } := by
  rw [step_scheduled, runMove, engineStep_of_head he hq, runWord_of_legal (decode_encode hi)]

/-- Settles O13: `startSegment_of_empty` after the pop. -/
theorem emptySegmentCompletesAtDecode : Obligations.EmptySegmentCompletesAtDecode := by
  intro i rest s hi he hq
  obtain rfl | rfl := hi
  · rw [step_engine_of_encode rfl he hq]
    exact congrArg Host.Outcome.next (startSegment_of_empty .tone _)
  · rw [step_engine_of_encode rfl he hq]
    exact congrArg Host.Outcome.next (startSegment_of_empty .sil _)

/-! The frame. -/

theorem readCtrl_of_running {s t : State} (ht : t.engine ≠ .off) (hs : s.engine ≠ .off) : readCtrl t = readCtrl s := by
  have hopen : ∀ u : State, u.engine ≠ .off → snkOpen u = true := fun u hu => by simp [snkOpen, hu]
  rw [readCtrl, readCtrl, hopen t ht, hopen s hs]

/-- A segment's decode step shows in STATUS, SEGMENTS, PHASE and REMAIN only: it neither opens nor closes the run, which CTRL
would show. -/
theorem readReg_startSegment {k : EngineState} (hk : k ≠ .off) {n : Operand} {s : State} (he : s.engine = .ready) {r : Reg}
    (h : readReg r (startSegment k n s) ≠ readReg r s) : r = .status ∨ r = .segments ∨ r = .phase ∨ r = .remain := by
  have hrun : (startSegment k n s).engine ≠ .off := by
    rw [startSegment_eq]
    dsimp only
    split
    · simp [he]
    · exact hk
  cases r
  case ctrl => exact absurd (readCtrl_of_running hrun (by simp [he])) h
  all_goals rw [startSegment_eq] at h
  all_goals simp [readReg, readLevel] at h ⊢

theorem readReg_execDrain {s : State} (he : s.engine = .ready) {r : Reg}
    (h : readReg r { s with engine := .drain, dreq := false } ≠ readReg r s) : r = .status := by
  cases r
  case ctrl => exact absurd (readCtrl_of_running (by simp) (by simp [he])) h
  all_goals simp [readReg, readLevel] at h ⊢

theorem readReg_execSetf {f : Nat} {s : State} {r : Reg}
    (h : readReg r { s with freq := operand28 f } ≠ readReg r s) : r = .freq := by
  cases r
  case freq => rfl
  all_goals exact absurd rfl h

/-- Settles O15: which registers read the changed fields, command by command, and `exec_frame` for everything else. -/
theorem commandsChangeOnlyTheirRegisters : Obligations.CommandsChangeOnlyTheirRegisters := by
  intro i s he
  obtain ⟨t, ht⟩ := exec_next i s
  refine ⟨t, ht, fun r hr => ?_, ?_⟩
  · cases i <;> obtain rfl := Host.Outcome.next.inj ht
    case setf => exact readReg_execSetf hr
    case tone => exact readReg_startSegment (by simp) he hr
    case sil => exact readReg_startSegment (by simp) he hr
    case drain => exact readReg_execDrain he hr
  · rw [exec_frame ht]
    exact ⟨rfl, rfl, rfl, rfl, rfl, rfl, rfl, rfl, rfl⟩

/-! The engine's turn. -/

/-- Settles O17: no frame is offered and no drain is in progress, so the Sink has no step, and the engine's comes next. -/
theorem stepRunsDecodedCommand : Obligations.StepRunsDecodedCommand := by
  intro s w rest i hsched he ho hq hw
  have hsink : eagerSinkMove s = none := by simp [eagerSinkMove_none, State.sinkCanMove, he, ho]
  have hengine : engineEnabled s = true := (engineEnabled_iff s).mpr (.inl ⟨he, by simp [hq]⟩)
  have hmove : eagerMove s = some .engine := by simp [eagerMove, hsink, hengine]
  rw [step_of_eagerMove hsched hmove, runMove, engineStep_of_head he hq, runWord_of_legal hw]

/-- Settles O18: while OFF `engineStep` answers the same state, and a successful enable is `startRun`, which writes neither
FIFO. -/
theorem offEngineTakesNoStep : Obligations.OffEngineTakesNoStep := by
  intro s he
  refine ⟨by rw [step_scheduled, runMove, engineStep, he], fun hc => ?_⟩
  rw [enable_of_device he hc]
  exact ⟨rfl, rfl⟩

end Sys2Proof.Machine
end

section
/-! PROOFS. What the registers read and what the bus answers (spec/10_state.md R24 to R41; spec/20_memory.md R61, R62). -/

namespace Sys2Proof.Machine

/-! The registers as numbers. -/

theorem rate_toNat {s : State} (h : s.cfg.wf = true) : (readReg .rate s).toNat = s.cfg.rate := by
  obtain ⟨-, hlt, -⟩ := of_decide_eq_true h
  exact (BitVec.toNat_ofNat _ _).trans (Nat.mod_eq_of_lt (by omega))

theorem readLevel_toNat {s : State} (hi : s.Inv) :
    (readReg .level s).toNat = s.cmdFifo.length + 65536 * s.outFifo.length := by
  obtain ⟨-, -, -, hcmd, -, hout, -⟩ := of_decide_eq_true hi.params
  have hc := hi.cmdBound
  have ho := hi.outBound
  rw [readReg, readLevel, BitVec.toNat_append, BitVec.toNat_ofNat, BitVec.toNat_ofNat, Nat.mod_eq_of_lt (by omega),
    Nat.mod_eq_of_lt (by omega), ← Nat.shiftLeft_add_eq_or_of_lt (by omega), Nat.shiftLeft_eq]
  omega

/-- Settles O41: the flags' registers bit by bit, the wide ones by `toNat_zero_append`, LEVEL by its two bounds. -/
theorem registerReadValues : Obligations.RegisterReadValues := by
  intro s
  refine ⟨?_, ?_, ?_, ?_, rfl, readLevel_toNat, readFreq_toNat s, rfl, rfl, toNat_zero_append 8 s.acc,
    toNat_zero_append 4 s.remain⟩
  · cases he : s.engine <;> simp only [readReg, readCtrl, snkOpen, flagBit, he] <;> decide
  · cases hd : s.irqDone <;> cases he : s.irqErr <;> simp [readReg, flagBit, hd, he]
  · cases hd : s.doneEn <;> cases he : s.errEn <;> simp [readReg, flagBit, hd, he]
  · cases hc : s.code <;> simp [readReg, ErrorCode.bits, hc]

/-! The fields of STATUS (R28). -/

/-- The bits of STATUS above STATE (R28). -/
def statusBit (s : State) : Nat → Bool
  | 4 => cmdEmpty s
  | 5 => cmdFull s
  | 6 => outEmpty s
  | 7 => outFull s
  | 8 => snkOpen s
  | 9 => s.dreq
  | 10 => irqLine s
  | _ => false

theorem readStatus_getLsbD (s : State) {i : Nat} (hi : 3 ≤ i) : (readReg .status s).getLsbD i = statusBit s i := by
  rw [readReg, readStatus]
  repeat rw [BitVec.getLsbD_append]
  rw [if_neg (by omega)]
  obtain hlt | hle := Nat.lt_or_ge i 11
  · interval_cases i <;> simp [statusBit, flagBit, snkDrainReq]
  · obtain ⟨k, rfl⟩ := Nat.exists_eq_add_of_le' hle
    simp [statusBit]

theorem readStatus_state (s : State) : (readReg .status s).extractLsb' 0 3 = s.engine.bits := by
  refine BitVec.eq_of_getLsbD_eq fun i hi => ?_
  rw [BitVec.getLsbD_extractLsb', readReg, readStatus, BitVec.getLsbD_append]
  simp [hi]

theorem readStatus_reserved (s : State) : (readReg .status s).extractLsb' 11 21 = 0#21 := by
  refine BitVec.eq_of_getLsbD_eq fun i hi => ?_
  rw [BitVec.getLsbD_extractLsb', readStatus_getLsbD s (by omega), Nat.add_comm]
  simp [statusBit]

/-- Settles O40: `readStatus_state` is the low field, `readStatus_getLsbD` each flag. -/
theorem statusFields : Obligations.StatusFields := by
  intro s
  refine ⟨?_, readStatus_getLsbD s (by decide), ?_, ?_, ?_, ?_, ?_, readStatus_getLsbD s (by decide),
    readStatus_getLsbD s (by decide), readStatus_reserved s⟩
  · rw [readStatus_state]
    cases s.engine <;> rfl
  all_goals
    rw [readStatus_getLsbD s (by decide)]
    simp [statusBit, cmdEmpty, cmdFull, outEmpty, outFull, snkOpen]

/-! The accesses that change nothing. -/

/-- Settles O36: the register leaves the state as it is, so its write is taken without effect. -/
theorem readOnlyWritesIgnored : Obligations.ReadOnlyWritesIgnored := by
  intro s avail v r hctrl hstatus henable hcmd
  have hw : writeReg avail r v s = some s := by
    cases r
    case ctrl => exact absurd rfl hctrl
    case irqStatus => exact absurd rfl hstatus
    case irqEnable => exact absurd rfl henable
    case cmd => exact absurd rfl hcmd
    all_goals rfl
  exact ⟨step_hostWrite_of_taken hw, rfl, rfl, rate_toNat⟩

/-- A read whose answer depends on the parameters only is answered so, and changes nothing. -/
theorem step_hostRead_of_answer {s : State} {avail : Bool} {addr : Nat} {size : AccessSize} {r : BusResponse}
    (h : ∀ u : State, u.cfg = s.cfg → busRead addr size u = r) :
    step ((s.hostNext (.read addr size)).scheduled (.host avail)) = .next (answer r s) := by
  rw [step_scheduled, ← h (s.hostNext (.read addr size)) rfl]
  rfl

/-- So is a write that completes without reaching a register. -/
theorem step_hostWrite_of_answer {s : State} {avail : Bool} {addr : Nat} {size : AccessSize} {lanes : Lanes} {r : BusResponse}
    (h : ∀ u : State, u.cfg = s.cfg → busWrite avail addr size lanes u = some (u, r)) :
    step ((s.hostNext (.write addr size lanes)).scheduled (.host avail)) = .next (answer r s) := by
  rw [step_scheduled, runMove, hostStep]
  simp only [State.hostNext_hostQueue, hostPerform, h (s.hostNext (.write addr size lanes)) rfl]
  rfl

theorem busTarget_outside {cfg : Config} {addr : Nat} (h : addr < cfg.base ∨ cfg.base + 64 ≤ addr) (size : AccessSize) :
    busTarget cfg addr size = .outside := by
  rw [busTarget, if_pos h]

theorem busTarget_error {cfg : Config} {off : Nat} {size : AccessSize} (hoff : off < 64) (h : size ≠ .word ∨ off % 4 ≠ 0) :
    busTarget cfg (cfg.base + off) size = .error := by
  rw [busTarget, if_neg (by omega), Nat.add_sub_cancel_left, if_pos h]

theorem busTarget_window {cfg : Config} {off : Nat} (hoff : off < 64) (h : off % 4 = 0) :
    busTarget cfg (cfg.base + off) .word = .reg (Reg.ofIndex (BitVec.ofNat 4 (off / 4))) := by
  rw [busTarget, if_neg (by omega), Nat.add_sub_cancel_left, if_neg (by simp [h])]

theorem wordOfLanes_of_disabled {l : Lanes} (h : l.b0 = none ∨ l.b1 = none ∨ l.b2 = none ∨ l.b3 = none) :
    wordOfLanes l = none := by
  cases hw : wordOfLanes l with
  | none => rfl
  | some v => simp [fullLanes_of_wordOfLanes hw, fullLanes] at h

/-- Settles O38: the access reaches nothing (`busTarget_outside`). -/
theorem outsideWindowNotDecoded : Obligations.OutsideWindowNotDecoded := by
  intro s avail addr size lanes h
  have htarget : ∀ u : State, u.cfg = s.cfg → busTarget u.cfg addr size = .outside := fun u hu => hu ▸ busTarget_outside h size
  exact ⟨step_hostRead_of_answer fun u hu => by rw [busRead, htarget u hu],
    step_hostWrite_of_answer fun u hu => by rw [busWrite, htarget u hu]⟩

/-- Settles O37: the access reaches no register (`busTarget_error`), or its lanes carry no word. -/
theorem undefinedAccessesAreBusErrors : Obligations.UndefinedAccessesAreBusErrors := by
  intro s avail off size lanes hoff
  refine ⟨fun h => step_hostRead_of_answer fun u hu => ?_, fun h => step_hostWrite_of_answer fun u hu => ?_⟩
  · rw [← hu, busRead, busTarget_error hoff h]
  · rw [← hu, busWrite]
    by_cases hdef : size ≠ .word ∨ off % 4 ≠ 0
    · rw [busTarget_error hoff hdef]
    · obtain ⟨rfl, hal⟩ : size = .word ∧ off % 4 = 0 := by simpa using hdef
      rw [busTarget_window hoff hal, wordOfLanes_of_disabled (by simpa [hal] using h)]

/-! The stalls and the frames. -/

/-- Settles O45: each outcome of a transfer but the stall needs a level of the port, a run and a frame (`sinkTransfer_cases`). -/
theorem stallChangesNothing : Obligations.StallChangesNothing := by
  intro s ready fail h
  rw [step_transfer]
  obtain hk | ⟨f, rest, he, hf, rfl, rfl, -⟩ | ⟨he, hf, rfl, -⟩ := sinkTransfer_cases ready fail s
  · rw [hk]
  · simp [he, hf] at h
  · simp [he, hf] at h

theorem toU16_toInt {v : Int} (hlo : -32768 ≤ v) (hhi : v ≤ 32767) : (toU16 v).toInt = v :=
  BitVec.toInt_ofInt_eq_self (by decide) (by simpa using hlo) (by simpa using Int.lt_add_one_of_le hhi)

theorem toU16_toNat (v : Int) : ((toU16 v).toNat : Int) = v % 65536 := by
  rw [toU16, BitVec.toNat_ofInt, Int.toNat_of_nonneg (Int.emod_nonneg _ (by decide))]
  rfl

theorem streamBytes_eq_flatMap (l : List Sample) : streamBytes l = l.flatMap frameBytes := by
  induction l with
  | nil => rfl
  | cons f fs ih => rw [streamBytes, ih, List.flatMap_cons]

theorem streamBytes_length (l : List Sample) : (streamBytes l).length = 2 * l.length := by
  simp [streamBytes_eq_flatMap, List.length_flatMap, frameBytes, mul_comm]

theorem frameBytes_toNat (f : Sample) :
    (f.extractLsb' 0 8).toNat = f.toNat % 256 ∧ (f.extractLsb' 8 8).toNat = f.toNat / 256 := by
  have hlt := f.isLt
  simp only [BitVec.extractLsb'_toNat, Nat.shiftRight_eq_div_pow]
  omega

/-- Settles O46: `toU16_toInt` and `toU16_toNat` for the pattern, `frameBytes_toNat` for the bytes, `streamBytes_eq_flatMap`
for the stream. -/
theorem frameBytesLowFirst : Obligations.FrameBytesLowFirst := by
  refine ⟨fun v hlo hhi => ⟨toU16_toInt hlo hhi, toU16_toNat v⟩, fun f => ⟨_, _, rfl, frameBytes_toNat f⟩, fun f => ?_,
    fun l m => ⟨streamBytes_eq_flatMap l, ?_, streamBytes_length l⟩⟩
  · rw [streamBytes, streamBytes, List.append_nil]
  · simp only [streamBytes_eq_flatMap, List.flatMap_append]

end Sys2Proof.Machine
end

section
/-! PROOFS. The symmetries of S (spec/40_synthesis.md R111, R116). The model's sample is the real sine rounded away from zero,
an odd function of an odd function, so each symmetry of the sine is one of the samples. -/

namespace Sys2Proof.Machine

/-! The rounding of R15. -/

/-- round_away: to the nearest integer, ties away from zero (R15). -/
noncomputable def roundAway (x : ℝ) : ℤ := if 0 ≤ x then ⌊x + 1 / 2⌋ else -⌊-x + 1 / 2⌋

theorem roundAway_zero : roundAway 0 = 0 := by norm_num [roundAway]

theorem roundAway_intCast_of_nonneg {n : ℤ} (h : 0 ≤ n) : roundAway n = n := by
  rw [roundAway, if_pos (mod_cast h), Int.floor_intCast_add]
  norm_num

theorem roundAway_neg (x : ℝ) : roundAway (-x) = -roundAway x := by
  obtain hx | rfl | hx := lt_trichotomy x 0
  · rw [roundAway, roundAway, if_pos (by linarith), if_neg (by linarith), neg_neg]
  · rw [neg_zero, roundAway_zero, neg_zero]
  · rw [roundAway, roundAway, if_neg (by linarith), if_pos hx.le, neg_neg]

theorem abs_roundAway_le {x : ℝ} {n : ℤ} (h : |x| ≤ n) : |roundAway x| ≤ n := by
  have hfloor : ∀ y : ℝ, 0 ≤ y → y ≤ n → 0 ≤ ⌊y + 1 / 2⌋ ∧ ⌊y + 1 / 2⌋ ≤ n := fun y h0 hn =>
    ⟨Int.floor_nonneg.mpr (by linarith), Int.lt_add_one_iff.mp (Int.floor_lt.mpr (by push_cast; linarith))⟩
  obtain ⟨hlo, hhi⟩ := abs_le.mp h
  rw [roundAway, abs_le]
  obtain hx | hx := le_or_gt 0 x
  · rw [if_pos hx]
    have := hfloor x hx hhi
    omega
  · rw [if_neg hx.not_ge]
    have := hfloor (-x) (by linarith) (by linarith)
    omega

/-! The samples as rounded sines. -/

/-- The exact value of S before the rounding (R110). -/
noncomputable def exactSine (rate a : ℕ) : ℝ := 32767 * Real.sin (2 * Real.pi * a / rate)

theorem exactSample_iff {rate a : ℕ} {v : ℤ} : ExactSample rate a v ↔ v = roundAway (exactSine rate a) := by
  change (0 ≤ exactSine rate a → _) ∧ (exactSine rate a < 0 → _) ↔ _
  rw [roundAway]
  obtain hx | hx := le_or_gt 0 (exactSine rate a)
  · simp only [hx, if_true, hx.not_gt, true_implies, false_implies, and_true]
    rfl
  · simp only [hx, hx.not_ge, if_false, true_implies, false_implies, true_and]
    rfl

theorem sineSample_eq_roundAway {rate a : ℕ} (hr : 1 ≤ rate) (hlt : rate < 2 ^ 24) (ha : a < rate) :
    sineSample rate a = roundAway (exactSine rate a) :=
  exactSample_iff.mp (sineExactAtEveryRate rate a hr hlt ha)

/-- The sine depends on the phase index modulo the rate only. -/
theorem exactSine_mod (rate a : ℕ) : exactSine rate (a % rate) = exactSine rate a := by
  obtain rfl | hr := Nat.eq_zero_or_pos rate
  · rw [Nat.mod_zero]
  have hr' : (rate : ℝ) ≠ 0 := by positivity
  have hdiv : (a : ℝ) = rate * (a / rate : ℕ) + (a % rate : ℕ) := mod_cast (Nat.div_add_mod a rate).symm
  rw [exactSine, exactSine, hdiv, ← Real.sin_add_nat_mul_two_pi _ (a / rate)]
  congr 2
  field_simp
  ring

theorem exactSine_sub {rate a : ℕ} (hr : 1 ≤ rate) (ha : a ≤ rate) : exactSine rate (rate - a) = -exactSine rate a := by
  have hr' : (rate : ℝ) ≠ 0 := by positivity
  rw [exactSine, exactSine, ← mul_neg, ← Real.sin_two_pi_sub, Nat.cast_sub ha]
  congr 2
  field_simp

theorem exactSine_half_sub {half a : ℕ} (hr : 1 ≤ half) (ha : a ≤ half) :
    exactSine (2 * half) (half - a) = exactSine (2 * half) a := by
  have hr' : (half : ℝ) ≠ 0 := by positivity
  rw [exactSine, exactSine, ← Real.sin_pi_sub (2 * Real.pi * a / _), Nat.cast_sub ha]
  congr 2
  push_cast
  field_simp

theorem exactSine_quarter {quarter : ℕ} (hr : 1 ≤ quarter) : exactSine (4 * quarter) quarter = 32767 := by
  have hr' : (quarter : ℝ) ≠ 0 := by positivity
  have hangle : 2 * Real.pi * quarter / (4 * quarter : ℕ) = Real.pi / 2 := by
    push_cast
    field_simp
    norm_num
  rw [exactSine, hangle, Real.sin_pi_div_two, mul_one]

theorem exactSine_zero (rate : ℕ) : exactSine rate 0 = 0 := by simp [exactSine]

/-! The symmetries. -/

theorem sineSample_of_exactSine_eq {rate a b : ℕ} (hr : 1 ≤ rate) (hlt : rate < 2 ^ 24) (ha : a < rate) (hb : b < rate)
    (h : exactSine rate b = exactSine rate a) : sineSample rate b = sineSample rate a := by
  rw [sineSample_eq_roundAway hr hlt hb, sineSample_eq_roundAway hr hlt ha, h]

theorem sineSample_bounds {rate a : ℕ} (hr : 1 ≤ rate) (hlt : rate < 2 ^ 24) (ha : a < rate) :
    -32767 ≤ sineSample rate a ∧ sineSample rate a ≤ 32767 := by
  have hsin : |exactSine rate a| ≤ (32767 : ℤ) := by
    rw [exactSine, abs_mul, abs_of_pos (by norm_num)]
    have := Real.abs_sin_le_one (2 * Real.pi * a / rate)
    push_cast
    linarith
  rw [sineSample_eq_roundAway hr hlt ha]
  exact abs_le.mp (abs_roundAway_le hsin)

/-- S(0) = 0, at every rate. -/
theorem sineSample_zero {rate : ℕ} (hr : 1 ≤ rate) : sineSample rate 0 = 0 := by
  have htie : 3 * 0 ≠ rate := by omega
  have hlevel : computedLevel rate 0 = 0 := by simp [computedLevel, sineFraction]
  have hquarter : quarterSine rate 0 = 0 := by
    refine eq_of_forall_le_iff fun v => ?_
    rw [le_quarterSine_iff hr htie, hlevel]
    constructor
    · intro h
      have hv : 2 * v - 1 ≤ 0 := mod_cast h
      omega
    · intro h
      have hv : (v : ℝ) ≤ 0 := mod_cast h
      linarith
  simpa [sineSample] using hquarter

theorem sineSample_reflect {rate a : ℕ} (hr : 1 ≤ rate) (hlt : rate < 2 ^ 24) (ha : a < rate) :
    sineSample rate ((rate - a) % rate) = -sineSample rate a := by
  rw [sineSample_eq_roundAway hr hlt (Nat.mod_lt _ hr), sineSample_eq_roundAway hr hlt ha, exactSine_mod,
    exactSine_sub hr ha.le, roundAway_neg]

theorem sineSample_half_sub {half a : ℕ} (hr : 1 ≤ half) (hlt : 2 * half < 2 ^ 24) (ha : a ≤ half) :
    sineSample (2 * half) ((half - a) % (2 * half)) = sineSample (2 * half) a := by
  refine sineSample_of_exactSine_eq (by omega) hlt (by omega) (Nat.mod_lt _ (by omega)) ?_
  rw [exactSine_mod, exactSine_half_sub hr ha]

theorem sineSample_half {half : ℕ} (hr : 1 ≤ half) (hlt : 2 * half < 2 ^ 24) : sineSample (2 * half) half = 0 := by
  have h := sineSample_half_sub hr hlt (Nat.zero_le half)
  rwa [Nat.sub_zero, Nat.mod_eq_of_lt (by omega), sineSample_zero (by omega)] at h

theorem sineSample_quarter {quarter : ℕ} (hr : 1 ≤ quarter) (hlt : 4 * quarter < 2 ^ 24) :
    sineSample (4 * quarter) quarter = 32767 := by
  rw [sineSample_eq_roundAway (by omega) hlt (by omega), exactSine_quarter hr]
  exact_mod_cast roundAway_intCast_of_nonneg (n := 32767) (by decide)

theorem sineSample_three_quarters {quarter : ℕ} (hr : 1 ≤ quarter) (hlt : 4 * quarter < 2 ^ 24) :
    sineSample (4 * quarter) (3 * quarter) = -32767 := by
  have h := sineSample_reflect (by omega) hlt (show quarter < 4 * quarter by omega)
  rwa [Nat.mod_eq_of_lt (by omega), show 4 * quarter - quarter = 3 * quarter by omega, sineSample_quarter hr hlt] at h

/-- The samples of a period cancel in pairs a, R - a. -/
theorem sum_sineSample {rate : ℕ} (hr : 1 ≤ rate) (hlt : rate < 2 ^ 24) :
    ((List.range rate).map (sineSample rate)).sum = 0 := by
  have hpairs : ∑ a ∈ Finset.range rate, sineSample rate a = 0 := by
    refine Finset.sum_involution (fun a _ => (rate - a) % rate) (fun a ha => ?_) (fun a ha hne heq => ?_)
      (fun a _ => Finset.mem_range.mpr (Nat.mod_lt _ hr)) (fun a ha => ?_)
    · rw [sineSample_reflect hr hlt (Finset.mem_range.mp ha), add_neg_cancel]
    · have h := sineSample_reflect hr hlt (Finset.mem_range.mp ha)
      rw [heq] at h
      omega
    · have ha := Finset.mem_range.mp ha
      obtain rfl | hpos := Nat.eq_zero_or_pos a
      · simp
      · rw [Nat.mod_eq_of_lt (show rate - a < rate by omega), Nat.sub_sub_self ha.le, Nat.mod_eq_of_lt ha]
  exact hpairs

/-- Settles O6: the default rate is one of those of `sineExactAtEveryRate`. -/
theorem sineExactAtDefaultRate : Obligations.SineExactAtDefaultRate :=
  fun a ha => sineExactAtEveryRate 44100 a (by decide) (by decide) ha

/-- Settles O8: the symmetries of the sine, through `sineSample_eq_roundAway`. -/
theorem sineSymmetries : Obligations.SineSymmetries := by
  intro rate hr hlt
  refine ⟨fun a => sineSample_bounds hr hlt, sineSample_zero hr, fun a => sineSample_reflect hr hlt, ?_, ?_,
    sum_sineSample hr hlt⟩
  · rintro ⟨half, rfl⟩
    rw [Nat.mul_div_cancel_left half two_pos]
    exact ⟨fun a => sineSample_half_sub (by omega) hlt, sineSample_half (by omega) hlt⟩
  · rintro ⟨quarter, rfl⟩
    rw [show 3 * (4 * quarter) / 4 = 3 * quarter by omega, Nat.mul_div_cancel_left quarter four_pos]
    exact ⟨sineSample_quarter (by omega) hlt, sineSample_three_quarters (by omega) hlt⟩

/-- Settles O9: the phase indices k * f are taken modulo the rate anyway, and those of a multiple of the rate are all 0. -/
theorem frequencyAliases : Obligations.FrequencyAliases := by
  intro rate f n hr
  have halias : ∀ k, k * (f % rate) % rate = k * f % rate := fun k => Nat.mul_mod_mod k f rate
  refine ⟨by simp only [toneSamples, halias], fun hf => ?_⟩
  simp only [toneSamples, ← halias, hf, Nat.mul_zero, Nat.zero_mod, sineSample_zero hr, silSamples]
  rw [List.map_const', List.length_range]
  rfl

end Sys2Proof.Machine
end

section
/-! PROOFS. A segment from its start to its end (spec/40_synthesis.md R114, R115, R119 to R121): the samples it pushes are
`segmentRest`, one a step. -/

namespace Sys2Proof.Machine

/-! One step of either kind of segment. -/

/-- The sample that the next step of a segment pushes: S(ACC), or 0 in a SIL segment (R119, R120). -/
def segmentSample (s : State) : Sample := if s.engine = .tone then currentSample s else 0#16

/-- ACC after that step (R119, R120). -/
def segmentNext (s : State) : Phase := if s.engine = .tone then (advancePhase s).acc else s.acc

/-- ACC after the rest of the segment. -/
def segmentEnd (s : State) : Phase :=
  if s.engine = .tone then BitVec.ofNat 24 ((s.acc.toNat + s.remain.toNat * s.freq.toNat) % s.cfg.rate) else s.acc

/-- The phase of a TONE segment is one of the build's (R44). -/
def State.phaseInRange (s : State) : Prop := s.engine = .tone → s.cfg.wf = true ∧ s.acc.toNat < s.cfg.rate

/-- The state after a sample of a segment, before the end of the segment is looked for. -/
def sampled (s : State) : State :=
  { s with outFifo := s.outFifo ++ [segmentSample s], acc := segmentNext s, remain := s.remain - 1#28 }

theorem engineStep_of_segment {s : State} (he : s.inSegment) (hen : sampleEnabled s = true) :
    engineStep s = .next (if s.remain - 1#28 = 0#28 then completeSegment (sampled s) else sampled s) := by
  obtain he | he := he
  · have hsample : segmentSample s = currentSample s := if_pos he
    have hnext : segmentNext s = (advancePhase s).acc := if_pos he
    have hstep : engineStep s = .next (if sampleEnabled s then toneSample s else s) := step_engine_of_tone he
    rw [hstep, sampled, hsample, hnext, if_pos hen]
    rfl
  · have hsample : segmentSample s = 0#16 := if_neg (by simp [he])
    have hnext : segmentNext s = s.acc := if_neg (by simp [he])
    have hstep : engineStep s = .next (if sampleEnabled s then silSample s else s) := step_engine_of_sil he
    rw [hstep, sampled, hsample, hnext, if_pos hen]
    rfl

theorem segmentNext_toNat {s : State} (he : s.engine = .tone) (hwf : s.cfg.wf = true) :
    (segmentNext s).toNat = (s.acc.toNat + s.freq.toNat) % s.cfg.rate := by
  rw [segmentNext, if_pos he, advancePhase_toNat hwf]

theorem sampled_remain_toNat {s : State} {n : Nat} (hr : s.remain.toNat = n + 1) : (sampled s).remain.toNat = n := by
  have := remain_pred (s := s) (by omega)
  simp only [sampled]
  omega

theorem sampled_phaseInRange {s : State} (hp : s.phaseInRange) : (sampled s).phaseInRange := by
  intro he
  obtain ⟨hwf, hacc⟩ := hp he
  refine ⟨hwf, ?_⟩
  calc (segmentNext s).toNat = (s.acc.toNat + s.freq.toNat) % s.cfg.rate := segmentNext_toNat he hwf
    _ < s.cfg.rate := Nat.mod_lt _ (Nat.zero_lt_of_lt hacc)

/-! What the rest of a segment is. -/

theorem segmentRest_of_tone {s : State} (he : s.engine = .tone) :
    segmentRest s = (List.range s.remain.toNat).map
      (fun k => toU16 (sineSample s.cfg.rate ((s.acc.toNat + k * s.freq.toNat) % s.cfg.rate))) := by
  rw [segmentRest, he]

theorem segmentRest_of_sil {s : State} (he : s.engine = .sil) : segmentRest s = silSamples s.remain.toNat := by
  rw [segmentRest, he]

/-- A segment that starts at phase 0 has the samples of R115. -/
theorem segmentRest_of_tone_start {s : State} (he : s.engine = .tone) (ha : s.acc = 0#24) :
    segmentRest s = toneSamples s.cfg.rate s.freq.toNat s.remain.toNat := by
  rw [segmentRest_of_tone he, ha, toneSamples]
  simp only [BitVec.toNat_zero, Nat.zero_add]

/-- A sample step takes the first of the rest. -/
theorem segmentRest_eq_cons {s : State} {n : Nat} (he : s.inSegment) (hr : s.remain.toNat = n + 1) (hp : s.phaseInRange) :
    segmentRest s = segmentSample s :: segmentRest (sampled s) := by
  obtain he | he := he
  · obtain ⟨hwf, hacc⟩ := hp he
    rw [segmentRest_of_tone he, segmentRest_of_tone (s := sampled s) he, sampled_remain_toNat hr, hr,
      List.range_succ_eq_map, List.map_cons, List.map_map]
    congr 1
    · rw [Nat.zero_mul, Nat.add_zero, Nat.mod_eq_of_lt hacc, segmentSample, if_pos he, currentSample]
    · refine List.map_congr_left fun k _ => ?_
      simp only [sampled, segmentNext_toNat he hwf, Function.comp_apply, Nat.mod_add_mod, Nat.succ_eq_add_one]
      congr 3
      ring
  · rw [segmentRest_of_sil he, segmentRest_of_sil (s := sampled s) he, sampled_remain_toNat hr, hr, segmentSample, he]
    rfl

theorem segmentRest_of_none {s : State} (hr : s.remain.toNat = 0) : segmentRest s = [] := by
  rw [segmentRest]
  cases s.engine <;> simp [hr, silSamples]

theorem segmentEnd_sampled {s : State} {n : Nat} (hr : s.remain.toNat = n + 1) (hp : s.phaseInRange) :
    segmentEnd (sampled s) = segmentEnd s := by
  by_cases he : s.engine = .tone
  · obtain ⟨hwf, -⟩ := hp he
    rw [segmentEnd, segmentEnd, if_pos he, if_pos (show (sampled s).engine = .tone from he), sampled_remain_toNat hr, hr]
    simp only [sampled, segmentNext_toNat he hwf, Nat.mod_add_mod]
    congr 2
    ring
  · rw [segmentEnd, segmentEnd, if_neg he, if_neg (show (sampled s).engine ≠ .tone from he)]
    simp only [sampled, segmentNext, if_neg he]

theorem segmentEnd_of_none {s : State} (hr : s.remain.toNat = 0) (hp : s.phaseInRange) : segmentEnd s = s.acc := by
  rw [segmentEnd]
  split
  · rename_i he
    rw [hr, Nat.zero_mul, Nat.add_zero, Nat.mod_eq_of_lt (hp he).2, BitVec.ofNat_toNat, BitVec.setWidth_eq]
  · rfl

/-! The whole segment. -/

/-- The engine's steps of a segment that OutFifo can hold push all its samples and complete it. -/
theorem runMoves_segment {n : Nat} {s : State} (he : s.inSegment) (hr : s.remain.toNat = n + 1) (hp : s.phaseInRange)
    (hroom : s.outFifo.length + (n + 1) ≤ s.cfg.outDepth) :
    runMoves (List.replicate (n + 1) .engine) s =
      .next { s with
        outFifo := s.outFifo ++ segmentRest s
        acc := segmentEnd s
        remain := 0#28
        segments := s.segments + 1#32
        engine := .ready } := by
  have hstep := engineStep_of_segment he (sampleEnabled_iff.mpr ⟨by omega, by omega⟩)
  have hleft := sampled_remain_toNat hr
  rw [List.replicate_succ, runMoves, runMove, hstep, andThen, segmentRest_eq_cons he hr hp, ← segmentEnd_sampled hr hp]
  cases n with
  | zero =>
    have hzero : s.remain - 1#28 = 0#28 := BitVec.eq_of_toNat_eq hleft
    rw [if_pos hzero, segmentRest_of_none hleft, segmentEnd_of_none hleft (sampled_phaseInRange hp), ← hzero]
    rfl
  | succ n =>
    have hmore : s.remain - 1#28 ≠ 0#28 := fun h0 => by simp [sampled, h0] at hleft
    have hroom' : (sampled s).outFifo.length + (n + 1) ≤ (sampled s).cfg.outDepth := by
      simp only [sampled, List.length_append, List.length_singleton]
      omega
    rw [if_neg hmore, runMoves_segment (s := sampled s) he hleft (sampled_phaseInRange hp) hroom', List.append_cons]
    rfl

/-- The same, as a run of the machine. -/
theorem run_segment {n : Nat} {s : State} (he : s.inSegment) (hr : s.remain.toNat = n) (hn : 0 < n) (hp : s.phaseInRange)
    (hroom : s.outFifo.length + n ≤ s.cfg.outDepth) :
    Host.Core.run Sys2Proof.core n { s with schedule := List.replicate n .engine ++ s.schedule } =
      .next { s with
        outFifo := s.outFifo ++ segmentRest s
        acc := segmentEnd s
        remain := 0#28
        segments := s.segments + 1#32
        engine := .ready } := by
  obtain ⟨k, rfl⟩ := Nat.exists_eq_succ_of_ne_zero hn.ne'
  have hrun := run_withSchedule (ms := List.replicate (k + 1) .engine)
    (fun m hm => List.eq_of_mem_replicate hm ▸ rfl) s.schedule s
  rw [List.length_replicate] at hrun
  exact hrun.trans (runMoves_segment he hr hp hroom)

/-- Settles O21: from phase 0 the segment's samples are those of R115 (`segmentRest_of_tone_start`). -/
theorem toneSegmentPushesItsSamples : Obligations.ToneSegmentPushesItsSamples := by
  intro n s hwf he ha hr hn hroom
  have hrate : 0 < s.cfg.rate ∧ s.cfg.rate < 2 ^ 24 := ⟨(of_decide_eq_true hwf).1, (of_decide_eq_true hwf).2.1⟩
  have hp : s.phaseInRange := fun _ => ⟨hwf, by simpa [ha] using hrate.1⟩
  refine ⟨_, run_segment (.inl he) hr hn hp hroom, ?_, ?_⟩
  · have hlt := Nat.mod_lt (n * s.freq.toNat) hrate.1
    have hacc : s.acc.toNat = 0 := by rw [ha, BitVec.toNat_zero]
    calc (segmentEnd s).toNat = n * s.freq.toNat % s.cfg.rate % 2 ^ 24 := by
          rw [segmentEnd, if_pos he, hacc, hr, Nat.zero_add, BitVec.toNat_ofNat]
      _ = n * s.freq.toNat % s.cfg.rate := Nat.mod_eq_of_lt (by omega)
  · rw [segmentRest_of_tone_start he ha, hr]

/-- Settles O22: the rest of a SIL segment is zeros, and its phase stays. -/
theorem silSegmentPushesZeros : Obligations.SilSegmentPushesZeros := by
  intro n s he hr hn hroom
  have hend : segmentEnd s = s.acc := if_neg (by simp [he])
  rw [run_segment (.inr he) hr hn (fun ht => by simp [he] at ht) hroom, hend, segmentRest_of_sil he, hr]

end Sys2Proof.Machine
end

section
/-! PROOFS. A run that ends DONE (spec/42_sample_datapath.md R182; spec/40_synthesis.md R115; spec/20_memory.md R72): what SinkLog
will hold is promised from the start, and every move of an undisturbed run keeps the promise. -/

namespace Sys2Proof.Machine

/-! The promise, move by move. -/

theorem segmentRest_of_not_inSegment {s : State} (h : ¬ s.inSegment) : segmentRest s = [] := by
  rw [segmentRest]
  cases he : s.engine <;> simp_all [State.inSegment]

theorem queuedRest_of_decoding {s : State} (h : s.engine = .ready ∨ s.inSegment) :
    queuedRest s = streamOf s.cfg.rate s.freq s.cmdFifo := by
  rw [queuedRest]
  obtain he | he | he := h <;> rw [he]

theorem queuedRest_of_drain {s : State} (h : s.engine = .drain) : queuedRest s = [] := by
  rw [queuedRest, h]

/-- In READY the promise is the frames accepted and held, and the queued words' samples. -/
theorem promisedLog_of_ready {s : State} (he : s.engine = .ready) :
    promisedLog s = s.sinkLog ++ s.outFifo ++ streamOf s.cfg.rate s.freq s.cmdFifo := by
  rw [promisedLog, segmentRest_of_not_inSegment (by simp [State.inSegment, he]), queuedRest_of_decoding (.inl he),
    List.append_nil]

theorem promisedLog_of_segment {s : State} (he : s.inSegment) :
    promisedLog s = s.sinkLog ++ s.outFifo ++ (segmentRest s ++ streamOf s.cfg.rate s.freq s.cmdFifo) := by
  rw [promisedLog, queuedRest_of_decoding (.inr he), List.append_assoc]

theorem promisedLog_of_drain {s : State} (he : s.engine = .drain) : promisedLog s = s.sinkLog ++ s.outFifo := by
  rw [promisedLog, segmentRest_of_not_inSegment (by simp [State.inSegment, he]), queuedRest_of_drain he, List.append_nil,
    List.append_nil]

/-- A TONE's or SIL's decode step promises the samples of the segment it starts, none if that is empty (R117, R118, R122). -/
theorem promisedLog_startSegment {k : EngineState} (hk : k = .tone ∨ k = .sil) (n : Operand) {s : State}
    (he : s.engine = .ready) :
    promisedLog (startSegment k n s) = s.sinkLog ++ s.outFifo ++
      (segmentRest { s with acc := 0#24, remain := n, engine := k } ++ streamOf s.cfg.rate s.freq s.cmdFifo) := by
  by_cases hn : n = 0#28
  · rw [hn, startSegment_of_empty, segmentRest_of_none rfl]
    exact promisedLog_of_ready he
  · rw [startSegment_of_samples k hn]
    exact promisedLog_of_segment hk

/-- A command's decode step, on the state without its word, keeps the promise of the state with it. -/
theorem promisedLog_exec {s t : State} {w : Word} {i : Instr} (he : s.engine = .ready) (hw : decode w = .legal i)
    (hx : exec i s = .next t) :
    promisedLog t = s.sinkLog ++ s.outFifo ++ streamOf s.cfg.rate s.freq (w :: s.cmdFifo) := by
  have hi := decode_legal_wellFormed hw
  rw [streamOf, hw]
  cases i <;> obtain rfl := Host.Outcome.next.inj hx
  case setf f => exact promisedLog_of_ready he
  case tone n =>
    rw [promisedLog_startSegment (.inl rfl) _ he, segmentRest_of_tone_start rfl rfl]
    dsimp only
    rw [operand28_toNat (of_decide_eq_true hi)]
  case sil n =>
    rw [promisedLog_startSegment (.inr rfl) _ he, segmentRest_of_sil rfl]
    dsimp only
    rw [operand28_toNat (of_decide_eq_true hi)]
  case drain => exact (promisedLog_of_drain rfl).trans (List.append_nil _).symm

/-- A sample step moves the first of the segment's samples into OutFifo. -/
theorem promisedLog_sampled {s : State} {n : Nat} (he : s.inSegment) (hr : s.remain.toNat = n + 1) (hp : s.phaseInRange) :
    promisedLog (if s.remain - 1#28 = 0#28 then completeSegment (sampled s) else sampled s) = promisedLog s := by
  rw [promisedLog_of_segment he, segmentRest_eq_cons he hr hp]
  split
  · rename_i h0
    have hnone : segmentRest (sampled s) = [] := segmentRest_of_none (congrArg BitVec.toNat h0)
    rw [promisedLog_of_ready rfl, hnone]
    simp [sampled]
  · rw [promisedLog_of_segment (s := sampled s) he]
    simp [sampled]

/-- An accepted frame goes from OutFifo to SinkLog. -/
theorem promisedLog_acceptFrame {s : State} {f : Sample} {rest : List Sample} (hf : s.outFifo = f :: rest) :
    promisedLog (acceptFrame f rest s) = promisedLog s := by
  have hout : s.sinkLog ++ [f] ++ rest = s.sinkLog ++ s.outFifo := by rw [hf, List.append_assoc, List.singleton_append]
  exact congrArg (fun l => l ++ segmentRest s ++ queuedRest s) hout

/-! The words still to be pushed are no part of a move. -/

theorem exec_queueing {i : Instr} {s t : State} (ws : List Word) (h : exec i s = .next t) :
    exec i (s.queueing ws) = .next (t.queueing ws) := by
  cases i <;> obtain rfl := Host.Outcome.next.inj h
  case setf => rfl
  case drain => rfl
  all_goals
    simp only [exec, execTone, execSil, startSegment_eq]
    rfl

theorem promisedLog_queueing_exec {s t : State} {w : Word} {rest : List Word} {i : Instr} (ws : List Word)
    (he : s.engine = .ready) (hq : s.cmdFifo = w :: rest) (hw : decode w = .legal i)
    (hx : exec i { s with cmdFifo := rest } = .next t) : promisedLog (t.queueing ws) = promisedLog (s.queueing ws) := by
  have hcmd : (s.queueing ws).cmdFifo = w :: (rest ++ ws) := by rw [State.queueing, hq, List.cons_append]
  rw [promisedLog_of_ready (s := s.queueing ws) he, hcmd]
  exact promisedLog_exec (s := { s with cmdFifo := rest ++ ws }) he hw (exec_queueing ws hx)

theorem promisedLog_queueing_sample {s t : State} (ws : List Word) (he : s.inSegment) (hen : sampleEnabled s = true)
    (hp : s.phaseInRange) (ht : engineStep s = .next t) : promisedLog (t.queueing ws) = promisedLog (s.queueing ws) := by
  obtain ⟨n, hr⟩ := Nat.exists_eq_succ_of_ne_zero (sampleEnabled_iff.mp hen).1.ne'
  obtain rfl := Host.Outcome.next.inj ((engineStep_of_segment he hen).symm.trans ht)
  rw [apply_ite (State.queueing ws)]
  exact promisedLog_sampled (s := s.queueing ws) he hr hp

theorem exists_hostNext_of_write {s : State} {off : Nat} {v : Word} {rest : List HostOp}
    (h : s.hostQueue = mmioWrite s.cfg off v :: rest) : ∃ u : State, s = u.hostNext (mmioWrite u.cfg off v) :=
  ⟨{ s with hostQueue := rest }, congrArg (fun q => { s with hostQueue := q }) h⟩

theorem hostStep_of_held {avail : Bool} {r : Reg} {v : Word} {s : State} (h : writeReg avail r v s = none) :
    hostStep avail (s.hostNext (mmioWrite s.cfg r.offset v)) = s.hostNext (mmioWrite s.cfg r.offset v) :=
  Host.Outcome.next.inj (step_hostWrite_of_held h)

/-! The run. -/

/-- SAMPLES has counted what SinkLog has gained (R37). -/
def Counted (s t : State) : Prop :=
  ∃ taken, t.sinkLog = s.sinkLog ++ taken ∧ t.samples = s.samples + BitVec.ofNat 32 taken.length

theorem Counted.of_none {s t : State} (hlog : t.sinkLog = s.sinkLog) (hcount : t.samples = s.samples) : Counted s t :=
  ⟨[], by simpa using hlog, by simpa using hcount⟩

theorem Counted.trans {s t u : State} (hst : Counted s t) (htu : Counted t u) : Counted s u := by
  obtain ⟨taken, hlog, hcount⟩ := hst
  obtain ⟨taken', hlog', hcount'⟩ := htu
  refine ⟨taken ++ taken', by rw [hlog', hlog, List.append_assoc], ?_⟩
  rw [hcount', hcount, List.length_append, BitVec.ofNat_add, BitVec.add_assoc]

/-- A run on its way to a DONE end: `ws` are the words still to be pushed, and `log` is what SinkLog will hold. Where the run has
ended without DONE nothing is claimed, as DONE is then never set. -/
structure Delivering (log : List Sample) (later : List HostOp) (ws : List Word) (s : State) : Prop where
  inv : s.Inv
  queue : s.hostQueue = ws.map (mmioWrite s.cfg 0x24) ++ later
  running : s.engine ≠ .off → s.irqDone = false ∧ promisedLog (s.queueing ws) = log
  ended : s.engine = .off → s.irqDone = true → s.sinkLog = log ∧ s.runEnd = .done

section
variable {log : List Sample} {later : List HostOp} {ws : List Word} {s t : State}

/-- A step that goes on with the run delivers when it keeps the promise. -/
theorem Delivering.of_kept (h : Delivering log later ws s) (hinv : t.Inv) (hrun : s.engine ≠ .off) (hrun' : t.engine ≠ .off)
    (hframe : t.hostQueue = s.hostQueue ∧ t.cfg = s.cfg ∧ t.irqDone = s.irqDone)
    (hp : promisedLog (t.queueing ws) = promisedLog (s.queueing ws)) : Delivering log later ws t := by
  obtain ⟨hdone, hlog⟩ := h.running hrun
  obtain ⟨hqueue, hcfg, hdone'⟩ := hframe
  exact { inv := hinv
          queue := by rw [hqueue, hcfg, h.queue]
          running := fun _ => ⟨hdone'.trans hdone, hp.trans hlog⟩
          ended := fun hoff => absurd hoff hrun' }

/-- An error ends the run without DONE. -/
theorem Delivering.of_failed (h : Delivering log later ws s) (hinv : t.Inv) (hrun : s.engine ≠ .off) (hoff : t.engine = .off)
    (hframe : t.hostQueue = s.hostQueue ∧ t.cfg = s.cfg ∧ t.irqDone = s.irqDone) : Delivering log later ws t := by
  obtain ⟨hdone, -⟩ := h.running hrun
  obtain ⟨hqueue, hcfg, hdone'⟩ := hframe
  exact { inv := hinv
          queue := by rw [hqueue, hcfg, h.queue]
          running := fun hrun' => absurd hoff hrun'
          ended := fun _ ht => by simp [hdone', hdone] at ht }

theorem Delivering.sample (h : Delivering log later ws s) (he : s.inSegment) (hen : sampleEnabled s = true)
    (ht : engineStep s = .next t) : Delivering log later ws t ∧ Counted s t := by
  have hinv := engineStep_inv h.inv ht
  have hpromise := promisedLog_queueing_sample ws he hen (fun _ => ⟨h.inv.params, h.inv.phase⟩) ht
  have hrun : s.engine ≠ .off := fun hoff => not_inSegment_of_off hoff he
  obtain rfl := Host.Outcome.next.inj ((engineStep_of_segment he hen).symm.trans ht)
  by_cases hlast : s.remain - 1#28 = 0#28
  · rw [if_pos hlast] at hinv hpromise ⊢
    exact ⟨h.of_kept hinv hrun (by simp) ⟨rfl, rfl, rfl⟩ hpromise, .of_none rfl rfl⟩
  · rw [if_neg hlast] at hinv hpromise ⊢
    exact ⟨h.of_kept hinv hrun hrun ⟨rfl, rfl, rfl⟩ hpromise, .of_none rfl rfl⟩

theorem Delivering.engine (h : Delivering log later ws s) (ht : engineStep s = .next t) :
    Delivering log later ws t ∧ Counted s t := by
  have hinv := engineStep_inv h.inv ht
  obtain rfl | ⟨he, w, rest, hq, ⟨i, hw, hx⟩ | ⟨-, rfl⟩⟩ | ⟨he, hen, rfl⟩ | ⟨he, hen, rfl⟩ | ⟨he, hen, rfl⟩ :=
    engineStep_cases ht
  · exact ⟨h, .of_none rfl rfl⟩
  · have hframe : t.hostQueue = s.hostQueue ∧ t.cfg = s.cfg ∧ t.irqDone = s.irqDone := by
      rw [exec_frame hx]
      exact ⟨rfl, rfl, rfl⟩
    exact ⟨h.of_kept hinv (by simp [he]) (exec_engine_ne_off hx he) hframe (promisedLog_queueing_exec ws he hq hw hx),
      .of_none (by rw [exec_sinkLog hx]) (by rw [exec_samples hx])⟩
  · exact ⟨h.of_failed hinv (by simp [he]) rfl ⟨rfl, rfl, rfl⟩, .of_none rfl rfl⟩
  · exact h.sample (.inl he) hen ht
  · exact h.sample (.inr he) hen ht
  · refine ⟨h.of_kept hinv (by simp [he]) (by simp [he]) ⟨rfl, rfl, rfl⟩ ?_, .of_none rfl rfl⟩
    rw [promisedLog_of_drain (s := s.queueing ws) he]
    exact promisedLog_of_drain he

theorem Delivering.transfer (h : Delivering log later ws s) (ready : Bool) :
    Delivering log later ws (sinkTransfer ready false s) ∧ Counted s (sinkTransfer ready false s) := by
  obtain hk | ⟨f, rest, he, hf, -, -, hk⟩ | ⟨-, -, hfail, -⟩ := sinkTransfer_cases ready false s
  · rw [hk]
    exact ⟨h, .of_none rfl rfl⟩
  · rw [hk]
    exact ⟨h.of_kept (acceptFrame_inv h.inv he hf) he he ⟨rfl, rfl, rfl⟩ (promisedLog_acceptFrame (s := s.queueing ws) hf),
      ⟨[f], rfl, rfl⟩⟩
  · cases hfail

/-- The acknowledgement finds OutFifo empty and no word to decode, so all that was promised is delivered (R144, R182). -/
theorem Delivering.drainAck (h : Delivering log later ws s) :
    Delivering log later ws (sinkDrainAck s) ∧ Counted s (sinkDrainAck s) := by
  obtain hk | ⟨he, hd, hk⟩ := sinkDrainAck_cases s <;> rw [hk]
  · exact ⟨h, .of_none rfl rfl⟩
  · have hrun : s.engine ≠ .off := by simp [he]
    have hlog : s.sinkLog = log := by
      have hp := (h.running hrun).2
      rw [promisedLog_of_drain (s := s.queueing ws) he] at hp
      simpa [State.queueing, (h.inv.drain hd).2] using hp
    exact ⟨{ inv := drainComplete_inv h.inv hrun
             queue := h.queue
             running := fun hne => absurd rfl hne
             ended := fun _ _ => ⟨hlog, rfl⟩ }, .of_none rfl rfl⟩

/-- The host pushes the next word, or drops it while OFF, or is held (R152). -/
theorem Delivering.host {w : Word} (h : Delivering log later (w :: ws) s) (avail : Bool) :
    (Delivering log later ws (hostStep avail s) ∨ Delivering log later (w :: ws) (hostStep avail s)) ∧
      Counted s (hostStep avail s) := by
  have hinv := hostStep_inv h.inv avail
  obtain ⟨u, rfl⟩ := exists_hostNext_of_write (off := Reg.cmd.offset) h.queue
  have hqueue : u.hostQueue = ws.map (mmioWrite u.cfg 0x24) ++ later := (List.cons.inj h.queue).2
  by_cases hroom : u.cmdFifo.length < u.cfg.cmdDepth
  · have htaken : writeReg avail .cmd w u = some (pushCmd w u) := writeCmd_of_room w hroom
    rw [hostStep_of_taken htaken] at hinv ⊢
    have hpush : (pushCmd w u).queueing ws = u.queueing (w :: ws) :=
      congrArg (fun q => { u with cmdFifo := q }) (List.append_assoc u.cmdFifo [w] ws)
    refine ⟨.inl { inv := hinv, queue := hqueue, running := fun hrun => ⟨(h.running hrun).1, ?_⟩, ended := h.ended },
      .of_none rfl rfl⟩
    exact (congrArg promisedLog hpush).trans (h.running hrun).2
  by_cases hoff : u.engine = .off
  · have htaken : writeReg avail .cmd w u = some u := writeCmd_of_full_off w hroom hoff
    rw [hostStep_of_taken htaken] at hinv ⊢
    exact ⟨.inl { inv := hinv, queue := hqueue, running := fun hrun => absurd hoff hrun, ended := h.ended }, .of_none rfl rfl⟩
  · have hheld : writeReg avail .cmd w u = none := writeCmd_of_full_running w hroom hoff
    rw [hostStep_of_held hheld]
    exact ⟨.inr h, .of_none rfl rfl⟩

end

theorem single_of_undisturbed {m : Move} (h : m.undisturbed = true ∨ m.isHost = true) : m.single = true := by
  cases m with
  | clock e => simp [Move.undisturbed, Move.isHost] at h
  | _ => rfl

theorem Delivering.undisturbed {log : List Sample} {later : List HostOp} {ws : List Word} {s t : State} {m : Move}
    (h : Delivering log later ws s) (hm : m.undisturbed = true) (ht : runMove m s = .next t) :
    Delivering log later ws t ∧ Counted s t := by
  cases m with
  | engine => exact h.engine ht
  | sink k =>
    cases k with
    | transfer ready fail =>
      obtain rfl : fail = false := by simpa [Move.undisturbed] using hm
      exact Host.Outcome.next.inj ht ▸ h.transfer ready
    | drainAck => exact Host.Outcome.next.inj ht ▸ h.drainAck
    | halfFrame => cases hm
  | reset => cases hm
  | host avail => cases hm
  | clock e => cases hm
  | otherHost op => cases hm

/-- One move of the run, with the host moves still to come: a host move uses up a word at most. -/
theorem Delivering.move {log : List Sample} {later : List HostOp} {m : Move} {ms : List Move} {ws : List Word} {s t : State}
    (h : Delivering log later ws s) (hm : m.undisturbed = true ∨ m.isHost = true)
    (hlen : ((m :: ms).filter Move.isHost).length ≤ ws.length) (ht : runMove m s = .next t) :
    ∃ ws', Delivering log later ws' t ∧ (ms.filter Move.isHost).length ≤ ws'.length ∧ Counted s t := by
  have hfewer : (ms.filter Move.isHost).length ≤ ((m :: ms).filter Move.isHost).length :=
    ((List.sublist_cons_self m ms).filter Move.isHost).length_le
  obtain hm | hm := hm
  · obtain ⟨h', hcount⟩ := h.undisturbed hm ht
    exact ⟨ws, h', hfewer.trans hlen, hcount⟩
  · cases m with
    | host avail =>
      obtain rfl := Host.Outcome.next.inj ht
      cases ws with
      | nil => exact absurd hlen (by simp [Move.isHost])
      | cons w ws =>
        obtain ⟨h' | h', hcount⟩ := h.host avail
        · exact ⟨ws, h', Nat.le_of_succ_le_succ hlen, hcount⟩
        · exact ⟨w :: ws, h', hfewer.trans hlen, hcount⟩
    | reset => cases hm
    | sink k => cases hm
    | engine => cases hm
    | clock e => cases hm
    | otherHost op => cases hm

theorem Delivering.moves {log : List Sample} {later : List HostOp} {ms : List Move} {ws : List Word} {s t : State}
    (h : Delivering log later ws s) (hms : ∀ m ∈ ms, m.undisturbed = true ∨ m.isHost = true)
    (hlen : (ms.filter Move.isHost).length ≤ ws.length) (ht : runMoves ms s = .next t) :
    (∃ ws', Delivering log later ws' t) ∧ Counted s t := by
  induction ms generalizing ws s with
  | nil =>
    obtain rfl := Host.Outcome.next.inj ht
    exact ⟨⟨ws, h⟩, .of_none rfl rfl⟩
  | cons m ms ih =>
    rw [runMoves] at ht
    cases hu : runMove m s with
    | fault r => simp [hu, andThen] at ht
    | refused r => simp [hu, andThen] at ht
    | next u =>
      rw [hu, andThen] at ht
      obtain ⟨ws', h', hlen', hcount⟩ := h.move (hms m List.mem_cons_self) hlen hu
      obtain ⟨hdel, hcount'⟩ := ih h' (fun k hk => hms k (List.mem_cons_of_mem m hk)) hlen' ht
      exact ⟨hdel, hcount.trans hcount'⟩

/-- Settles O23: the state meets `Delivering` with its own promise, every move keeps it, and with DONE set the run has ended,
so that SinkLog is what was promised. -/
theorem doneRunDeliversThePromisedFrames : Obligations.DoneRunDeliversThePromisedFrames := by
  intro s t ws later hi hrun hdone hqueue hms hlen ht htdone
  have hstart : Delivering (promisedLog (s.queueing ws)) later ws (s.withSchedule []) :=
    { inv := hi.environment s.hostQueue s.busLog []
      queue := hqueue
      running := fun _ => ⟨hdone, rfl⟩
      ended := fun hoff => absurd hoff hrun }
  have hmoves : runMoves s.schedule (s.withSchedule []) = .next t := by
    rw [← run_withSchedule (fun m hm => single_of_undisturbed (hms m hm)), List.append_nil]
    exact ht
  obtain ⟨⟨ws', h⟩, taken, hlog, hcount⟩ := hstart.moves hms hlen hmoves
  have hoff : t.engine = .off := by
    by_contra hne
    exact Bool.false_ne_true ((h.running hne).1.symm.trans htdone)
  obtain ⟨hpromise, hend⟩ := h.ended hoff htdone
  refine ⟨hpromise, hend, hcount.trans ?_⟩
  rw [hlog, List.length_append]
  exact congrArg (fun n => s.samples + BitVec.ofNat 32 n) (Nat.add_sub_cancel_left s.sinkLog.length taken.length).symm

end Sys2Proof.Machine
end
